-- ==== Sys2Proof/Word.lean ====
section
/-! DEFINITION. The words of the machine: bytes, 16-bit words, immediates and register numbers (00_scope.md R6, R10). -/

namespace Sys2Proof

/-- A byte: a general register, a timer, a memory location, the immediate NN. -/
abbrev Byte := BitVec 8

/-- A 16-bit word: an instruction word, I, PC, a stack entry. -/
abbrev Word := BitVec 16

/-- The 12-bit immediate NNN (30_encoding.md R71, R75). -/
abbrev Imm12 := BitVec 12

/-- A 4-bit field of the word; as an immediate, the row count N (R71). -/
abbrev Nibble := BitVec 4

/-- The number of a general register, V0 to VF: every 4-bit field names one (10_state.md R21). -/
abbrev Reg := Fin 16

/-- A key code or a hexadecimal digit, 0x0 to 0xF (00_scope.md R8, 10_state.md R37). -/
abbrev KeyCode := Fin 16

/-- VF, the register that doubles as the flag (10_state.md R20, R23). -/
def Reg.vf : Reg := 15

end Sys2Proof
end

