-- ==== Sys2Proof/Config.lean ====
section
/-! DEFINITION. The configuration CFG of 00_scope.md R7, and the free values: what the spec leaves OPEN, and the random byte. -/

namespace Sys2Proof

/-- `CFG.SHIFT_SRC`: the source operand of `8XY6` and `8XYE` (R128, R130). -/
inductive ShiftSrc where
  | vx
  | vy
  deriving DecidableEq, Repr, Inhabited

/-- `CFG.JUMP_OFFSET_REG`: the offset register of `BNNN` (R103). -/
inductive JumpOffsetReg where
  | v0
  | vx
  deriving DecidableEq, Repr, Inhabited

/-- `CFG.UNKNOWN_OPCODE_POLICY`: what an unknown word does (R94). -/
inductive UnknownOpcodePolicy where
  | halt
  | skip
  deriving DecidableEq, Repr, Inhabited

/-- How many bytes the font has: 16 glyphs of 5 (R6, R41). -/
abbrev fontSize : Nat := 80

/-- The configuration of 00_scope.md R7: fixed before reset, never changed while the machine runs. -/
structure Config where
  /-- `CFG.SHIFT_SRC`. -/
  shiftSrc : ShiftSrc
  /-- `CFG.JUMP_OFFSET_REG`. -/
  jumpOffsetReg : JumpOffsetReg
  /-- `CFG.LOADSTORE_INC_I`: `FX55` and `FX65` advance I by X + 1 (R144, R145). -/
  loadStoreIncI : Bool
  /-- `CFG.SPRITE_CLIP`: `DXYN` clips instead of wrapping (R162). -/
  spriteClip : Bool
  /-- `CFG.FX1E_SETS_VF`: `FX1E` reports a sum above 0xFFF in VF (R141). -/
  fx1eSetsVf : Bool
  /-- `CFG.UNKNOWN_OPCODE_POLICY`. -/
  unknownOpcodePolicy : UnknownOpcodePolicy
  /-- `CFG.FONT_BASE`: an address with `FONT_BASE + 79 <= 0x1FF`, so at most 432 (R7, R41). -/
  fontBase : Fin 433
  /-- `CFG.FONT_TABLE`: the glyphs of the digits 0 to F, 5 bytes each (R41, R42). -/
  fontTable : Vector Byte fontSize
  deriving DecidableEq, Repr

/-- DESIGN CHOICE (log 2): `CFG.SHIFT_SRC` is OPEN (R7, D14); no value of it can be proved. -/
opaque Config.openShiftSrc : ShiftSrc

/-- DESIGN CHOICE (log 2): `CFG.JUMP_OFFSET_REG` is OPEN (R7, D15); no value of it can be proved. -/
opaque Config.openJumpOffsetReg : JumpOffsetReg

/-- DESIGN CHOICE (log 2): `CFG.LOADSTORE_INC_I` is OPEN (R7, D16); no value of it can be proved. -/
opaque Config.openLoadStoreIncI : Bool

/-- The free input `draw8()` of 00_scope.md R14: the value of the k-th draw, under no law (log 5). -/
opaque Config.draw8 : Nat → Byte

/-- PRESUMED (log 4): the font table of 10_state.md R42, which the spec supplies from general knowledge (D3, G1). -/
def Config.fontTableR42 : Vector Byte fontSize :=
  #v[0xF0, 0x90, 0x90, 0x90, 0xF0,   0x20, 0x60, 0x20, 0x20, 0x70,
     0xF0, 0x10, 0xF0, 0x80, 0xF0,   0xF0, 0x10, 0xF0, 0x10, 0xF0,
     0x90, 0x90, 0xF0, 0x10, 0x10,   0xF0, 0x80, 0xF0, 0x10, 0xF0,
     0xF0, 0x80, 0xF0, 0x90, 0xF0,   0xF0, 0x10, 0x20, 0x40, 0x40,
     0xF0, 0x90, 0xF0, 0x90, 0xF0,   0xF0, 0x90, 0xF0, 0x10, 0xF0,
     0xF0, 0x90, 0xF0, 0x90, 0x90,   0xE0, 0x90, 0xE0, 0x90, 0xE0,
     0xF0, 0x80, 0x80, 0x80, 0xF0,   0xE0, 0x90, 0x90, 0x90, 0xE0,
     0xF0, 0x80, 0xF0, 0x80, 0xF0,   0xF0, 0x80, 0xF0, 0x80, 0x80]

/-- The configuration of the machine after reset: the default of R7 for each field that has one (logs 3 and 4), an opaque
constant for each OPEN field (log 2). -/
def Config.initial : Config where
  shiftSrc := Config.openShiftSrc
  jumpOffsetReg := Config.openJumpOffsetReg
  loadStoreIncI := Config.openLoadStoreIncI
  spriteClip := false
  fx1eSetsVf := false
  unknownOpcodePolicy := .halt
  fontBase := 0x050
  fontTable := Config.fontTableR42

end Sys2Proof
end

