-- ==== Sys2Proof/Syntax.lean ====
section
/-! DEFINITION. The instructions: one constructor per row of spec/opcode_table.json (30_encoding.md R73), with the fields of
R71 as operands. -/

namespace Sys2Proof

/-- The 34 instructions of 30_encoding.md R73, in the table's order; `x` and `y` are the X and Y fields, `nn`, `nnn`, `n` the
immediates. -/
inductive Instr where
  /-- `00E0`, `CLS` (R160). -/
  | cls
  /-- `00EE`, `RET` (R100). -/
  | ret
  /-- `1NNN`, `JP NNN` (R101). -/
  | jp (nnn : Imm12)
  /-- `2NNN`, `CALL NNN` (R102). -/
  | call (nnn : Imm12)
  /-- `3XNN`, `SE VX, NN` (R104). -/
  | seImm (x : Reg) (nn : Byte)
  /-- `4XNN`, `SNE VX, NN` (R105). -/
  | sneImm (x : Reg) (nn : Byte)
  /-- `5XY0`, `SE VX, VY` (R106). -/
  | seReg (x y : Reg)
  /-- `6XNN`, `LD VX, NN` (R120). -/
  | ldImm (x : Reg) (nn : Byte)
  /-- `7XNN`, `ADD VX, NN` (R121). -/
  | addImm (x : Reg) (nn : Byte)
  /-- `8XY0`, `LD VX, VY` (R122). -/
  | ldReg (x y : Reg)
  /-- `8XY1`, `OR VX, VY` (R123). -/
  | orReg (x y : Reg)
  /-- `8XY2`, `AND VX, VY` (R124). -/
  | andReg (x y : Reg)
  /-- `8XY3`, `XOR VX, VY` (R125). -/
  | xorReg (x y : Reg)
  /-- `8XY4`, `ADD VX, VY` (R126). -/
  | addReg (x y : Reg)
  /-- `8XY5`, `SUB VX, VY` (R127). -/
  | sub (x y : Reg)
  /-- `8XY6`, `SHR VX, VY` (R128). -/
  | shr (x y : Reg)
  /-- `8XY7`, `SUBN VX, VY` (R129). -/
  | subn (x y : Reg)
  /-- `8XYE`, `SHL VX, VY` (R130). -/
  | shl (x y : Reg)
  /-- `9XY0`, `SNE VX, VY` (R107). -/
  | sneReg (x y : Reg)
  /-- `ANNN`, `LD I, NNN` (R140). -/
  | ldI (nnn : Imm12)
  /-- `BNNN`, `JP V0, NNN` (R103); the X of the `VX` mode is the top nibble of `nnn`. -/
  | jpOff (nnn : Imm12)
  /-- `CXNN`, `RND VX, NN` (R132). -/
  | rnd (x : Reg) (nn : Byte)
  /-- `DXYN`, `DRW VX, VY, N` (R161). -/
  | drw (x y : Reg) (n : Nibble)
  /-- `EX9E`, `SKP VX` (R170). -/
  | skp (x : Reg)
  /-- `EXA1`, `SKNP VX` (R171). -/
  | sknp (x : Reg)
  /-- `FX07`, `LD VX, DT` (R173). -/
  | ldVxDt (x : Reg)
  /-- `FX0A`, `LD VX, K` (R172). -/
  | ldVxK (x : Reg)
  /-- `FX15`, `LD DT, VX` (R174). -/
  | ldDtVx (x : Reg)
  /-- `FX18`, `LD ST, VX` (R175). -/
  | ldStVx (x : Reg)
  /-- `FX1E`, `ADD I, VX` (R141). -/
  | addI (x : Reg)
  /-- `FX29`, `LD F, VX` (R142). -/
  | ldF (x : Reg)
  /-- `FX33`, `LD B, VX` (R143). -/
  | ldB (x : Reg)
  /-- `FX55`, `LD [I], VX` (R144). -/
  | stRegs (x : Reg)
  /-- `FX65`, `LD VX, [I]` (R145). -/
  | ldRegs (x : Reg)
  deriving DecidableEq, Repr

end Sys2Proof
end

