-- ==== Sys2Proof/WellFormed.lean ====
section
/-! DEFINITION. Well-formed instructions: every operand fits the field of the instruction word that holds it (30_encoding.md
R71). The operands' types already say so; the check is on the operands as plain numbers, where it can fail. -/

namespace Sys2Proof

/-- The kinds of operand field (30_encoding.md R71): a register number X or Y, the row count N, NN and NNN. -/
inductive FieldKind where
  | reg
  | n
  | nn
  | nnn
  deriving DecidableEq, Repr

/-- The width of a field in bits (R71). -/
def FieldKind.width : FieldKind → Nat
  | .reg => 4
  | .n => 4
  | .nn => 8
  | .nnn => 12

/-- An operand as a plain number, with the field it belongs to. -/
structure Operand where
  kind : FieldKind
  value : Nat
  deriving DecidableEq, Repr

/-- The operand fits its field. -/
def Operand.fits (o : Operand) : Bool := decide (o.value < 2 ^ o.kind.width)

/-- The operands of an instruction as plain numbers, in the order of the word's fields. -/
def Instr.operands : Instr → List Operand
  | .cls | .ret => []
  | .jp nnn | .call nnn | .ldI nnn | .jpOff nnn => [⟨.nnn, nnn.toNat⟩]
  | .seImm x nn | .sneImm x nn | .ldImm x nn | .addImm x nn | .rnd x nn => [⟨.reg, x.val⟩, ⟨.nn, nn.toNat⟩]
  | .seReg x y | .sneReg x y | .ldReg x y | .orReg x y | .andReg x y | .xorReg x y | .addReg x y | .sub x y | .shr x y
  | .subn x y | .shl x y => [⟨.reg, x.val⟩, ⟨.reg, y.val⟩]
  | .drw x y n => [⟨.reg, x.val⟩, ⟨.reg, y.val⟩, ⟨.n, n.toNat⟩]
  | .skp x | .sknp x | .ldVxDt x | .ldVxK x | .ldDtVx x | .ldStVx x | .addI x | .ldF x | .ldB x | .stRegs x | .ldRegs x =>
    [⟨.reg, x.val⟩]

/-- Every operand fits its field. -/
def Operand.allFit (os : List Operand) : Bool := os.all Operand.fits

/-- A well-formed instruction: every operand fits its field. -/
def Instr.wellFormed (i : Instr) : Bool := Operand.allFit i.operands

end Sys2Proof
end

