-- ==== Sys2Proof/Decode.lean ====
section
/-! DEFINITION. Decoding (30_encoding.md R70, R71, R73, R81), rejecting by the classes of R76, and the encoder. -/

namespace Sys2Proof

/-- Why some bytes are no instruction: the classes of unknown words of 30_encoding.md R76, or too few bytes. -/
inductive DecodeError where
  /-- `0NNN` other than `00E0` and `00EE`. -/
  | unknownClass0
  /-- `5XYN` with N not 0. -/
  | unknownClass5
  /-- `8XYN` with N one of 8, 9, A, B, C, D, F. -/
  | unknownClass8
  /-- `9XYN` with N not 0. -/
  | unknownClass9
  /-- `EXNN` with NN neither 9E nor A1. -/
  | unknownClassE
  /-- `FXNN` with NN none of 07, 0A, 15, 18, 1E, 29, 33, 55, 65. -/
  | unknownClassF
  /-- Fewer than two bytes: every instruction is exactly two (R70). -/
  | truncated
  deriving DecidableEq, Repr

/-- The opcode class, `w[15:12]` (R71). -/
def classField (w : Word) : Nibble := w.extractLsb' 12 4

/-- The X field, `w[11:8]`, as a register number (R71, R21). -/
def xField (w : Word) : Reg := (w.extractLsb' 8 4).toFin

/-- The Y field, `w[7:4]`, as a register number (R71, R21). -/
def yField (w : Word) : Reg := (w.extractLsb' 4 4).toFin

/-- The N field, `w[3:0]` (R71). -/
def nField (w : Word) : Nibble := w.extractLsb' 0 4

/-- The NN field, `w[7:0]` (R71). -/
def nnField (w : Word) : Byte := w.extractLsb' 0 8

/-- The NNN field, `w[11:0]` (R71). -/
def nnnField (w : Word) : Imm12 := w.extractLsb' 0 12

/-- Class 8: the ALU group, by N (R74, R81). -/
def decodeAlu (w : Word) : Except DecodeError Instr :=
  match (nField w).toNat with
  | 0x0 => .ok (.ldReg (xField w) (yField w))
  | 0x1 => .ok (.orReg (xField w) (yField w))
  | 0x2 => .ok (.andReg (xField w) (yField w))
  | 0x3 => .ok (.xorReg (xField w) (yField w))
  | 0x4 => .ok (.addReg (xField w) (yField w))
  | 0x5 => .ok (.sub (xField w) (yField w))
  | 0x6 => .ok (.shr (xField w) (yField w))
  | 0x7 => .ok (.subn (xField w) (yField w))
  | 0xE => .ok (.shl (xField w) (yField w))
  | _ => .error .unknownClass8

/-- Class E: the key skips, by NN (R81). -/
def decodeKey (w : Word) : Except DecodeError Instr :=
  match (nnField w).toNat with
  | 0x9E => .ok (.skp (xField w))
  | 0xA1 => .ok (.sknp (xField w))
  | _ => .error .unknownClassE

/-- Class F: timers, key wait, index and memory, by NN (R81). -/
def decodeMisc (w : Word) : Except DecodeError Instr :=
  match (nnField w).toNat with
  | 0x07 => .ok (.ldVxDt (xField w))
  | 0x0A => .ok (.ldVxK (xField w))
  | 0x15 => .ok (.ldDtVx (xField w))
  | 0x18 => .ok (.ldStVx (xField w))
  | 0x1E => .ok (.addI (xField w))
  | 0x29 => .ok (.ldF (xField w))
  | 0x33 => .ok (.ldB (xField w))
  | 0x55 => .ok (.stRegs (xField w))
  | 0x65 => .ok (.ldRegs (xField w))
  | _ => .error .unknownClassF

/-- The decoding procedure of 30_encoding.md R81: total, of the word alone. -/
def decodeWord (w : Word) : Except DecodeError Instr :=
  match (classField w).toNat with
  | 0x0 => if w = 0x00E0 then .ok .cls else if w = 0x00EE then .ok .ret else .error .unknownClass0
  | 0x1 => .ok (.jp (nnnField w))
  | 0x2 => .ok (.call (nnnField w))
  | 0x3 => .ok (.seImm (xField w) (nnField w))
  | 0x4 => .ok (.sneImm (xField w) (nnField w))
  | 0x5 => if nField w = 0 then .ok (.seReg (xField w) (yField w)) else .error .unknownClass5
  | 0x6 => .ok (.ldImm (xField w) (nnField w))
  | 0x7 => .ok (.addImm (xField w) (nnField w))
  | 0x8 => decodeAlu w
  | 0x9 => if nField w = 0 then .ok (.sneReg (xField w) (yField w)) else .error .unknownClass9
  | 0xA => .ok (.ldI (nnnField w))
  | 0xB => .ok (.jpOff (nnnField w))
  | 0xC => .ok (.rnd (xField w) (nnField w))
  | 0xD => .ok (.drw (xField w) (yField w) (nField w))
  | 0xE => decodeKey w
  | _ => decodeMisc w

/-- The instruction word of two consecutive bytes, the one at the lower address first: big-endian (R52, R70). -/
def wordOfBytes (hi lo : Byte) : Word := hi ++ lo

/-- Decoding of any bytes: the instruction and the bytes after it, or the reason there is none. -/
def decode : List Byte → Except DecodeError (Instr × List Byte)
  | hi :: lo :: rest =>
    match decodeWord (wordOfBytes hi lo) with
    | .ok i => .ok (i, rest)
    | .error e => .error e
  | _ => .error .truncated

/-- The row of 30_encoding.md R73 (and of opcode_table.json) that an instruction belongs to: the bits that are fixed in it
(`mask`) and their values (`pattern`, the table's `match`). -/
structure Row where
  pattern : Word
  mask : Word
  deriving DecidableEq, Repr

/-- The row of an instruction (30_encoding.md R73). -/
def Instr.row : Instr → Row
  | .cls => ⟨0x00E0, 0xFFFF⟩
  | .ret => ⟨0x00EE, 0xFFFF⟩
  | .jp _ => ⟨0x1000, 0xF000⟩
  | .call _ => ⟨0x2000, 0xF000⟩
  | .seImm _ _ => ⟨0x3000, 0xF000⟩
  | .sneImm _ _ => ⟨0x4000, 0xF000⟩
  | .seReg _ _ => ⟨0x5000, 0xF00F⟩
  | .ldImm _ _ => ⟨0x6000, 0xF000⟩
  | .addImm _ _ => ⟨0x7000, 0xF000⟩
  | .ldReg _ _ => ⟨0x8000, 0xF00F⟩
  | .orReg _ _ => ⟨0x8001, 0xF00F⟩
  | .andReg _ _ => ⟨0x8002, 0xF00F⟩
  | .xorReg _ _ => ⟨0x8003, 0xF00F⟩
  | .addReg _ _ => ⟨0x8004, 0xF00F⟩
  | .sub _ _ => ⟨0x8005, 0xF00F⟩
  | .shr _ _ => ⟨0x8006, 0xF00F⟩
  | .subn _ _ => ⟨0x8007, 0xF00F⟩
  | .shl _ _ => ⟨0x800E, 0xF00F⟩
  | .sneReg _ _ => ⟨0x9000, 0xF00F⟩
  | .ldI _ => ⟨0xA000, 0xF000⟩
  | .jpOff _ => ⟨0xB000, 0xF000⟩
  | .rnd _ _ => ⟨0xC000, 0xF000⟩
  | .drw _ _ _ => ⟨0xD000, 0xF000⟩
  | .skp _ => ⟨0xE09E, 0xF0FF⟩
  | .sknp _ => ⟨0xE0A1, 0xF0FF⟩
  | .ldVxDt _ => ⟨0xF007, 0xF0FF⟩
  | .ldVxK _ => ⟨0xF00A, 0xF0FF⟩
  | .ldDtVx _ => ⟨0xF015, 0xF0FF⟩
  | .ldStVx _ => ⟨0xF018, 0xF0FF⟩
  | .addI _ => ⟨0xF01E, 0xF0FF⟩
  | .ldF _ => ⟨0xF029, 0xF0FF⟩
  | .ldB _ => ⟨0xF033, 0xF0FF⟩
  | .stRegs _ => ⟨0xF055, 0xF0FF⟩
  | .ldRegs _ => ⟨0xF065, 0xF0FF⟩

/-- A word matches a row: `w AND mask = match` (R73). -/
def Row.accepts (r : Row) (w : Word) : Bool := decide (w &&& r.mask = r.pattern)

/-- A register number as a 4-bit field. -/
def regField (r : Reg) : Nibble := BitVec.ofFin r

/-- The operand bits of the format NNN (R72). -/
def formatNnn (nnn : Imm12) : Word := (0 : Nibble) ++ nnn

/-- The operand bits of the format XNN (R72). -/
def formatXnn (x : Reg) (nn : Byte) : Word := (0 : Nibble) ++ regField x ++ nn

/-- The operand bits of the format XYN (R72); N is 0 where it is a sub-opcode, which is among the row's fixed bits. -/
def formatXyn (x y : Reg) (n : Nibble) : Word := (0 : Nibble) ++ regField x ++ regField y ++ n

/-- The operands of an instruction, each in its place in the word (R71, R72), and 0 elsewhere. -/
def Instr.fieldBits : Instr → Word
  | .cls | .ret => 0
  | .jp nnn | .call nnn | .ldI nnn | .jpOff nnn => formatNnn nnn
  | .seImm x nn | .sneImm x nn | .ldImm x nn | .addImm x nn | .rnd x nn => formatXnn x nn
  | .seReg x y | .sneReg x y | .ldReg x y | .orReg x y | .andReg x y | .xorReg x y | .addReg x y | .sub x y | .shr x y
  | .subn x y | .shl x y => formatXyn x y 0
  | .drw x y n => formatXyn x y n
  | .skp x | .sknp x | .ldVxDt x | .ldVxK x | .ldDtVx x | .ldStVx x | .addI x | .ldF x | .ldB x | .stRegs x | .ldRegs x =>
    formatXnn x 0

/-- The word of an instruction: its row's fixed bits and its operands' bits (R71, R72, R73). -/
def encode (i : Instr) : Word := i.row.pattern ||| i.fieldBits

/-- The bytes of an instruction word in memory order: the high byte at the lower address (R70). -/
def bytesOfWord (w : Word) : List Byte := [w.extractLsb' 8 8, w.extractLsb' 0 8]

/-- The word of `nbits` bits with the number `w`, every bit above `nbits` zero. -/
def tableWord (nbits w : Nat) : Word := BitVec.ofNat 16 (w % 2 ^ nbits)

/-- The instruction the decoder reads from the word that spec/opcode_table.json numbers `w`, its bytes laid out as the machine
stores them. -/
def decodeTableWord (nbits w : Nat) : Option Instr :=
  match decode (bytesOfWord (tableWord nbits w)) with
  | .ok (i, _) => some i
  | .error _ => none

end Sys2Proof
end

