-- ==== Sys2Proof/Machine/State.lean ====
section
/-! DEFINITION. The machine's state (10_state.md), the reasons a step can stop, and the state after reset (10_state.md R40). -/

namespace Sys2Proof.Machine

/-- The four fatal conditions of 60_exceptions.md R190. The spec describes what each does to the machine (R13, R196): the
machine enters Halted with a fault record. So a fault is a NEXT state of the model, in which `State.fault` names the cause, and
no meaning and no step answers with `Host.Outcome.fault` (log 7). -/
inductive Fault where
  /-- Code 1. Raised by the fetch (PC + 1 > 4095) and by `DXYN`, `FX33`, `FX55`, `FX65` (a data address above 4095). Safe: it is
  the spec's own condition. -/
  | outOfBoundsAccess
  /-- Code 2. Raised by `2NNN` on a stack of 16 entries. Safe: it is the spec's own condition. -/
  | stackOverflow
  /-- Code 3. Raised by `00EE` on an empty stack. Safe: it is the spec's own condition. -/
  | stackUnderflow
  /-- Code 4. Raised by the decode of an unknown word under the policy `halt`. Safe: it is the spec's own condition. -/
  | unknownOpcode
  deriving DecidableEq, Repr

/-- The reasons to refuse an instruction. No instruction of this model is refused. -/
inductive Refusal where
  /-- An arm of `exec` that has no meaning yet; raised by no arm of this model. Safe: the machine stops. -/
  | notModelled (mnemonic : String)
  deriving DecidableEq, Repr

/-- RUN, the run state of the interpreter (10_state.md R35). -/
inductive RunState where
  /-- Ready to fetch. -/
  | ready
  /-- Suspended by `FX0A`, whose X field is latched (R35, R172). -/
  | awaitKey (x : Reg)
  /-- Stopped by a fault (R194). -/
  | halted
  deriving DecidableEq, Repr

/-- FAULT when it is not `none`: the cause, the address of the faulting instruction, and its word, `none` when the fetch itself
faulted (10_state.md R36, 60_exceptions.md R192). -/
structure FaultRecord where
  cause : Fault
  pc : Word
  word : Option Word
  deriving DecidableEq, Repr

/-- The operations of the agents (00_scope.md R8, R9); each is one atomic event on the state (60_exceptions.md R209). -/
inductive Operation where
  /-- `step()` of the CPU (R90). -/
  | step
  /-- `tick()` of the 60 Hz clock (R205). -/
  | tick
  /-- `set_key(code, pressed)` of the input collaborator (R207). -/
  | setKey (code : KeyCode) (pressed : Bool)
  /-- `notify_key_press(code)` of the input collaborator (R208). -/
  | notifyKeyPress (code : KeyCode)
  /-- `load_program(bytes)` of the host (R236). -/
  | loadProgram (bytes : List Byte)
  /-- `reset()` of the host (R230). -/
  | reset
  deriving DecidableEq, Repr

/-- The memory MEM: the cells that differ from what an unlisted address reads as, by rising address (log 21). -/
abbrev Memory := List Host.Cell

/-- The framebuffer FB: 32 rows, row 0 first; bit x of a row is the pixel of column x (10_state.md R34, log 10). -/
abbrev FrameBuffer := Vector (BitVec 64) 32

/-- The state of the machine: the tuple of 10_state.md, and three fields of the model's own (`cfg`, `draws`, `schedule`). -/
structure State where
  /-- V0 to VF (R20). -/
  v : Vector Byte 16
  /-- I, the index register (R25). -/
  i : Word
  /-- PC (R27). -/
  pc : Word
  /-- STACK[0..15] (R30). -/
  stack : Vector Word 16
  /-- SP, how many stack entries are in use, 0 to 16 (R30). -/
  sp : Fin 17
  /-- DT, the delay timer (R32). -/
  dt : Byte
  /-- ST, the sound timer (R33). -/
  st : Byte
  /-- FB, the display (R34). -/
  fb : FrameBuffer
  /-- KEY[0..15], `true` = pressed (R37). -/
  key : Vector Bool 16
  /-- MEM (R38). -/
  mem : Memory
  /-- RUN (R35). -/
  run : RunState
  /-- FAULT (R36). -/
  fault : Option FaultRecord
  /-- DESIGN CHOICE (log 1): CFG, the model's argument of 00_scope.md R7; nothing changes it. -/
  cfg : Config
  /-- DESIGN CHOICE (log 5): how often `draw8()` (R14) has been evaluated. -/
  draws : Nat
  /-- DESIGN CHOICE (log 6): the operations still to come, in the total order of R209; when none is listed the CPU steps. -/
  schedule : List Operation
  deriving DecidableEq, Repr

/-- A machine as `reset()` leaves it under a configuration: the values of 10_state.md R40; memory lists nothing, since an
unlisted address reads as its reset content. -/
def State.constructed (cfg : Config) : State where
  v := Vector.replicate 16 0
  i := 0
  pc := 0x0200
  stack := Vector.replicate 16 0
  sp := 0
  dt := 0
  st := 0
  fb := Vector.replicate 32 0
  key := Vector.replicate 16 false
  mem := []
  run := .ready
  fault := none
  cfg := cfg
  draws := 0
  schedule := []

/-- The machine right after reset (10_state.md R40), with the configuration of logs 2 to 4, no draw made (log 5) and no operation
scheduled (log 6). -/
def State.reset : State := State.constructed Config.initial

end Sys2Proof.Machine
end

