-- ==== Sys2Proof/Machine/Ops.lean ====
section
/-! DEFINITION. The named operations over the state: memory (20_memory.md), registers and stack (10_state.md), taking a fault
(00_scope.md R13), the fetch (40_step_cycle.md R91), the random draw (00_scope.md R14). -/

namespace Sys2Proof.Machine

/-! ## Memory -/

/-- The highest address of memory, 4095 (20_memory.md R50). -/
abbrev maxAddr : Nat := 4095

/-- What an unlisted address reads as: the reset contents of MEM, that is the font in its region and zero elsewhere (10_state.md
R40, R41). -/
def Memory.unlisted (cfg : Config) (a : Nat) : Byte :=
  if h : cfg.fontBase.val ≤ a ∧ a - cfg.fontBase.val < fontSize then cfg.fontTable[a - cfg.fontBase.val]'h.2 else 0

/-- `MEM[a]`: the listed byte, or what an unlisted address reads as. -/
def Memory.get (cfg : Config) : Memory → Nat → Byte
  | [], a => Memory.unlisted cfg a
  | (k, c) :: m, a => if a = k then c else Memory.get cfg m a

/-- The memory without the cells of an address. -/
def Memory.erase (m : Memory) (a : Nat) : Memory := m.filter fun c => c.1 != a

/-- A cell put in its place by address. -/
def Memory.place : Memory → Nat → Byte → Memory
  | [], a, b => [(a, b)]
  | (k, c) :: m, a, b => if a < k then (a, b) :: (k, c) :: m else (k, c) :: Memory.place m a b

/-- The byte at an address of memory becomes `b`: listed in its place, unless it is what the unlisted address reads as. -/
def Memory.insert (cfg : Config) (m : Memory) (a : Nat) (b : Byte) : Memory :=
  if b = Memory.unlisted cfg a then Memory.erase m a else Memory.place (Memory.erase m a) a b

/-- `MEM[a] <- b` (R12); an address that does not exist is left alone (every caller has checked it first, R65). -/
def Memory.set (cfg : Config) (m : Memory) (a : Nat) (b : Byte) : Memory :=
  if a ≤ maxAddr then Memory.insert cfg m a b else m

/-- Consecutive bytes written at ascending addresses from `a` (R52). -/
def Memory.setBytes (cfg : Config) : Memory → Nat → List Byte → Memory
  | m, _, [] => m
  | m, a, b :: bs => Memory.setBytes cfg (Memory.set cfg m a b) (a + 1) bs

/-- The listed addresses exist, rise, start at `lo` or above, and each holds another byte than it reads as unlisted. -/
def Memory.wfFrom (cfg : Config) : Nat → Memory → Bool
  | _, [] => true
  | lo, (k, c) :: m => decide (lo ≤ k ∧ k ≤ maxAddr ∧ c ≠ Memory.unlisted cfg k) && Memory.wfFrom cfg (k + 1) m

/-- The canonical form of memory (log 21). -/
def Memory.wf (cfg : Config) (m : Memory) : Bool := Memory.wfFrom cfg 0 m

/-- `MemRead(a, 1)` for an address that has been checked (R12). -/
def State.load (s : State) (a : Nat) : Byte := Memory.get s.cfg s.mem a

/-- `n` bytes from `a` upwards (R53). -/
def State.loadBytes (s : State) (a n : Nat) : List Byte := (List.range n).map fun k => s.load (a + k)

/-- `MemWrite` of consecutive bytes from `a` upwards, all checked before (R12, R65). -/
def State.storeBytes (s : State) (a : Nat) (bs : List Byte) : State :=
  { s with mem := Memory.setBytes s.cfg s.mem a bs }

/-- The bounds check of an access: the last address accessed exists (R55, R65); no wrap-around. -/
def inBounds (last : Nat) : Bool := decide (last ≤ maxAddr)

/-! ## Registers -/

/-- `V[r]` (R20, R21). -/
def State.reg (s : State) (r : Reg) : Byte := s.v[r.val]

/-- `V[r] <- b`. -/
def State.setReg (s : State) (r : Reg) (b : Byte) : State := { s with v := s.v.set r.val b }

/-- The result to VX first, the flag to VF second, so that X = F leaves the flag (R24). -/
def State.setRegFlag (s : State) (r : Reg) (b flag : Byte) : State := (s.setReg r b).setReg Reg.vf flag

/-- `V[0], V[1], ... <- bs`; registers beyond the list keep their values. -/
def State.setLowRegs (s : State) (bs : List Byte) : State :=
  { s with v := Vector.ofFn fun k : Fin 16 => bs.getD k.val (s.reg k) }

/-- `V[0]` to `V[x]`, in order. -/
def State.lowRegs (s : State) (x : Reg) : List Byte := (s.v.toList).take (x.val + 1)

/-- `I <- w` (R25). -/
def State.setI (s : State) (w : Word) : State := { s with i := w }

/-- `PC <- w` (R27). -/
def State.setPc (s : State) (w : Word) : State := { s with pc := w }

/-- The advance of the fetch: `PC <- (pc0 + 2) mod 65536` (R92). -/
def State.advance (s : State) : State := s.setPc (s.pc + 2)

/-- The skip: PC becomes `pc0 + 4` when the condition holds, and `pc0 + 2` otherwise (R108). -/
def State.skipIf (s : State) (c : Bool) : State := s.setPc (if c then s.pc + 4 else s.pc + 2)

/-- `DT <- b` (R32). -/
def State.setDt (s : State) (b : Byte) : State := { s with dt := b }

/-- `ST <- b` (R33). -/
def State.setSt (s : State) (b : Byte) : State := { s with st := b }

/-- FB replaced as a whole (R34). -/
def State.setFb (s : State) (f : FrameBuffer) : State := { s with fb := f }

/-- `RUN <- r` (R35). -/
def State.setRun (s : State) (r : RunState) : State := { s with run := r }

/-- The operations still to come, replaced (log 6). -/
def State.setSchedule (s : State) (ops : List Operation) : State := { s with schedule := ops }

/-- `KEY[k]`, the source's `is_pressed(k)` (R37, R207). -/
def State.isPressed (s : State) (k : KeyCode) : Bool := s.key[k.val]

/-! ## The call stack -/

/-- `push(a)` (R31): StackOverflow when 16 entries are held. -/
def State.push (s : State) (a : Word) : Except Fault State :=
  if h : s.sp.val < 16 then
    .ok { s with stack := s.stack.set s.sp.val a, sp := ⟨s.sp.val + 1, by omega⟩ }
  else .error .stackOverflow

/-- `pop()` (R31): StackUnderflow when the stack is empty; the entry is left in place (R100). -/
def State.pop (s : State) : Except Fault (Word × State) :=
  if _h : s.sp.val = 0 then .error .stackUnderflow
  else .ok (s.stack[s.sp.val - 1]'(by have := s.sp.isLt; omega), { s with sp := ⟨s.sp.val - 1, by have := s.sp.isLt; omega⟩ })

/-! ## Faults -/

/-- The numeric code of a fault cause (R190, its decision D10). -/
def Fault.code : Fault → Nat
  | .outOfBoundsAccess => 1
  | .stackOverflow => 2
  | .stackUnderflow => 3
  | .unknownOpcode => 4

/-- `raise Fault(cause)`: taking a fault, the whole of fault entry (R13, R193, R196). `s` is the state at the beginning of the
step, so that its PC is `pc0` and no write of the abandoned instruction has happened; `word` is the fetched word, or `none` when
the fetch faulted. There is no return from a fault (R197): only `reset()` leaves Halted. -/
def State.raise (s : State) (cause : Fault) (word : Option Word) : State :=
  { s with run := .halted, fault := some ⟨cause, s.pc, word⟩ }

/-- An unknown word, under the policy of the configuration (R94, R198). -/
def State.unknownWord (s : State) (w : Word) : State :=
  match s.cfg.unknownOpcodePolicy with
  | .halt => s.raise .unknownOpcode (some w)
  | .skip => s.advance

/-! ## Fetch and random draw -/

/-- The fetch (R91): the big-endian word at PC and PC + 1, or `none` when PC + 1 is above 4095. -/
def State.fetchWord (s : State) : Option Word :=
  if inBounds (s.pc.toNat + 1) then some (wordOfBytes (s.load s.pc.toNat) (s.load (s.pc.toNat + 1))) else none

/-- `draw8()`: the byte of this draw, under no law (R14, log 5). -/
def State.drawnByte (s : State) : Byte := Config.draw8 s.draws

/-- The draw is spent: the next one is another free value (log 5). -/
def State.spendDraw (s : State) : State := { s with draws := s.draws + 1 }

/-- `s` made ready to fetch the word `w` as its next step: the word's bytes at PC and PC + 1, RUN = Ready without a fault, and no
other operation scheduled before the CPU's step (log 22). -/
def State.placeWord (s : State) (w : Word) : State :=
  { (s.storeBytes s.pc.toNat (bytesOfWord w)).setSchedule [] with run := .ready, fault := none }

end Sys2Proof.Machine
end

