-- ==== Sys2Proof/Machine/Operands.lean ====
section
/-! DEFINITION. The operand forms of the instructions: immediates, the configured source registers, key and digit selection, the
effective addresses, and the decimal digits of `FX33`. -/

namespace Sys2Proof.Machine

/-- `zext_16(NNN)` (30_encoding.md R75). -/
def addrOperand (nnn : Imm12) : Word := nnn.setWidth 16

/-- The X field of a `BNNN` word: the top nibble of NNN (R72, R103). -/
def jumpX (nnn : Imm12) : Reg := (nnn.extractLsb' 8 4).toFin

/-- The offset register of `BNNN` (R103): V0, or VX in the `VX` mode. -/
def jumpOffsetReg (cfg : Config) (nnn : Imm12) : Reg :=
  match cfg.jumpOffsetReg with
  | .v0 => 0
  | .vx => jumpX nnn

/-- The target of `BNNN`: `(zext_16(NNN) + zext_16(V[r])) mod 65536` (R103). -/
def State.jumpTarget (s : State) (nnn : Imm12) : Word :=
  addrOperand nnn + (s.reg (jumpOffsetReg s.cfg nnn)).setWidth 16

/-- The shift's source operand: VX or VY (R128, R130). -/
def State.shiftSource (s : State) (x y : Reg) : Byte :=
  match s.cfg.shiftSrc with
  | .vx => s.reg x
  | .vy => s.reg y

/-- The low nibble of a register's value, as a key or digit number (R142, R170; the spec's decisions D5 and D6). -/
def lowNibble (b : Byte) : KeyCode := (b.extractLsb' 0 4).toFin

/-- The key that `EX9E` and `EXA1` test (R170, R171). -/
def State.keyOperand (s : State) (x : Reg) : Bool := s.isPressed (lowNibble (s.reg x))

/-- The address of a digit's glyph: `FONT_BASE + 5 * d` (R142). -/
def glyphAddr (cfg : Config) (d : KeyCode) : Word := BitVec.ofNat 16 (cfg.fontBase.val + 5 * d.val)

/-- The sum of `FX1E`, unreduced (R141). -/
def State.indexSum (s : State) (x : Reg) : Nat := s.i.toNat + (s.reg x).toNat

/-- The base of a data access: the effective address of its first byte (R146). -/
def State.dataAddr (s : State) : Nat := s.i.toNat

/-- I after `FX55` or `FX65`: advanced by X + 1 modulo 65536, or unchanged (R144, R145). -/
def State.indexAfterBlock (s : State) (x : Reg) : Word :=
  if s.cfg.loadStoreIncI then s.i + BitVec.ofNat 16 (x.val + 1) else s.i

/-- The decimal digits of a byte: hundreds, tens, ones (R143, the spec's decision D34). -/
def decimalDigits (b : Byte) : List Byte :=
  [BitVec.ofNat 8 (b.toNat / 100), BitVec.ofNat 8 (b.toNat / 10 % 10), BitVec.ofNat 8 (b.toNat % 10)]

end Sys2Proof.Machine
end

