-- ==== Sys2Proof/Machine/Flags.lean ====
section
/-! DEFINITION. The values VF receives as a flag (10_state.md R23): carry, not borrow, the bit shifted out, the address overflow of
`FX1E`. Each is the byte 0 or 1. -/

namespace Sys2Proof.Machine

/-- A flag as VF holds it: 0x01 or 0x00 (R23). -/
def flagByte (c : Bool) : Byte := if c then 1 else 0

/-- The carry of an addition (R126): the exact sum is above 255. -/
def carryFlag (a b : Byte) : Byte := flagByte (decide (a.toNat + b.toNat > 255))

/-- NOT borrow of `a - b` (R127, R129). -/
def notBorrowFlag (a b : Byte) : Byte := flagByte (decide (b.toNat ≤ a.toNat))

/-- The bit a right shift shifts out: bit 0 of the source (R128). -/
def shiftRightFlag (src : Byte) : Byte := flagByte (src.getLsbD 0)

/-- The bit a left shift shifts out: bit 7 of the source (R130). -/
def shiftLeftFlag (src : Byte) : Byte := flagByte (src.getLsbD 7)

/-- `FX1E` under `CFG.FX1E_SETS_VF`: the sum exceeds 0xFFF (R141). -/
def indexOverflowFlag (sum : Nat) : Byte := flagByte (decide (sum > 0x0FFF))

end Sys2Proof.Machine
end

