-- ==== Sys2Proof/Machine/ControlFlow.lean ====
section
/-! DEFINITION. Return, jumps, call and the conditional skips (41_control_flow.md). A meaning is run on the state at the beginning
of the step, so PC is `pc0`. -/

namespace Sys2Proof.Machine

/-- `00EE` (R100). -/
def execRet (s : State) : Host.Outcome State Fault Refusal :=
  match s.pop with
  | .ok (a, s') => .next (s'.setPc a)
  | .error c => .next (s.raise c (some (encode .ret)))

/-- `1NNN` (R101). -/
def execJp (nnn : Imm12) (s : State) : Host.Outcome State Fault Refusal :=
  .next (s.setPc (addrOperand nnn))

/-- `2NNN` (R102). -/
def execCall (nnn : Imm12) (s : State) : Host.Outcome State Fault Refusal :=
  match s.push (s.pc + 2) with
  | .ok s' => .next (s'.setPc (addrOperand nnn))
  | .error c => .next (s.raise c (some (encode (.call nnn))))

/-- `BNNN` (R103). -/
def execJpOff (nnn : Imm12) (s : State) : Host.Outcome State Fault Refusal :=
  .next (s.setPc (s.jumpTarget nnn))

/-- `3XNN` (R104). -/
def execSeImm (x : Reg) (nn : Byte) (s : State) : Host.Outcome State Fault Refusal :=
  .next (s.skipIf (s.reg x == nn))

/-- `4XNN` (R105). -/
def execSneImm (x : Reg) (nn : Byte) (s : State) : Host.Outcome State Fault Refusal :=
  .next (s.skipIf (s.reg x != nn))

/-- `5XY0` (R106). -/
def execSeReg (x y : Reg) (s : State) : Host.Outcome State Fault Refusal :=
  .next (s.skipIf (s.reg x == s.reg y))

/-- `9XY0` (R107). -/
def execSneReg (x y : Reg) (s : State) : Host.Outcome State Fault Refusal :=
  .next (s.skipIf (s.reg x != s.reg y))

end Sys2Proof.Machine
end

