-- ==== Sys2Proof/Machine/Display.lean ====
section
/-! DEFINITION. The display: pixels, clear and the sprite draw (44_display.md). -/

namespace Sys2Proof.Machine

/-- `FB[x, y]`; false outside the 64 by 32 grid (10_state.md R34). -/
def FrameBuffer.pixel (f : FrameBuffer) (x y : Nat) : Bool :=
  if h : y < 32 then (f[y]'h).getLsbD x else false

/-- `FB[x, y] <- FB[x, y] XOR 1`; nothing outside the grid. -/
def FrameBuffer.flip (f : FrameBuffer) (x y : Nat) : FrameBuffer :=
  if h : y < 32 then f.set y ((f[y]'h) ^^^ (1#64 <<< x)) h else f

/-- The display with every pixel 0 (R160). -/
def FrameBuffer.clear : FrameBuffer := Vector.replicate 32 0

/-- A draw in progress: the framebuffer so far, and `hit`, whether a pixel has gone from 1 to 0 (R161). -/
structure Draw where
  fb : FrameBuffer
  hit : Bool
  deriving DecidableEq, Repr

/-- One set bit of the sprite at (px, py), before wrapping or clipping (R161, R162). -/
def Draw.plot (clip : Bool) (px py : Nat) (d : Draw) : Draw :=
  let qx := if clip then px else px % 64
  let qy := if clip then py else py % 32
  if qx ≤ 63 ∧ qy ≤ 31 then ⟨d.fb.flip qx qy, d.hit || d.fb.pixel qx qy⟩ else d

/-- The columns `cs` of one sprite row `b`, drawn with column 0 at x0 on row py; bit 7 is column 0 (R161, R163). -/
def Draw.columns (clip : Bool) (x0 py : Nat) (b : Byte) : List Nat → Draw → Draw
  | [], d => d
  | c :: cs, d => Draw.columns clip x0 py b cs (if b.getLsbD (7 - c) then d.plot clip (x0 + c) py else d)

/-- The rows of a sprite, the first at row py (R161, R163). -/
def Draw.rows (clip : Bool) (x0 : Nat) : Nat → List Byte → Draw → Draw
  | _, [], d => d
  | py, b :: bs, d => Draw.rows clip x0 (py + 1) bs (Draw.columns clip x0 py b [0, 1, 2, 3, 4, 5, 6, 7] d)

/-- The draw of `DXYN`: the sprite at (vx mod 64, vy mod 32) (R161). -/
def FrameBuffer.draw (f : FrameBuffer) (clip : Bool) (vx vy : Byte) (sprite : List Byte) : Draw :=
  Draw.rows clip (vx.toNat % 64) (vy.toNat % 32) sprite ⟨f, false⟩

/-- The draw an instruction `DXYN` makes from a state: all operands read before anything is written (R161, R24). -/
def State.drawSprite (s : State) (x y : Reg) (n : Nibble) : Draw :=
  s.fb.draw s.cfg.spriteClip (s.reg x) (s.reg y) (s.loadBytes s.dataAddr n.toNat)

/-- `00E0` (R160). -/
def execCls (s : State) : Host.Outcome State Fault Refusal :=
  .next (s.setFb FrameBuffer.clear).advance

/-- `DXYN` (R161): no bounds check when no row is read, since `n = 0` accesses no byte (R65). -/
def execDrw (x y : Reg) (n : Nibble) (s : State) : Host.Outcome State Fault Refusal :=
  if n.toNat = 0 ∨ inBounds (s.dataAddr + n.toNat - 1) = true then
    .next ((s.setFb (s.drawSprite x y n).fb).setReg Reg.vf (flagByte (s.drawSprite x y n).hit)).advance
  else .next (s.raise .outOfBoundsAccess (some (encode (.drw x y n))))

end Sys2Proof.Machine
end

