-- ==== Sys2Proof/Machine/IndexMemory.lean ====
section
/-! DEFINITION. The index register and the memory instructions (43_index_memory.md). Every address is checked before anything is
written (20_memory.md R65). -/

namespace Sys2Proof.Machine

/-- `ANNN` (R140). -/
def execLdI (nnn : Imm12) (s : State) : Host.Outcome State Fault Refusal :=
  .next (s.setI (addrOperand nnn)).advance

/-- `FX1E` (R141): I first, then VF under `CFG.FX1E_SETS_VF`. -/
def execAddI (x : Reg) (s : State) : Host.Outcome State Fault Refusal :=
  let s' := s.setI (BitVec.ofNat 16 (s.indexSum x))
  .next (if s.cfg.fx1eSetsVf then s'.setReg Reg.vf (indexOverflowFlag (s.indexSum x)) else s').advance

/-- `FX29` (R142). -/
def execLdF (x : Reg) (s : State) : Host.Outcome State Fault Refusal :=
  .next (s.setI (glyphAddr s.cfg (lowNibble (s.reg x)))).advance

/-- `FX33` (R143). -/
def execLdB (x : Reg) (s : State) : Host.Outcome State Fault Refusal :=
  if inBounds (s.dataAddr + 2) then .next (s.storeBytes s.dataAddr (decimalDigits (s.reg x))).advance
  else .next (s.raise .outOfBoundsAccess (some (encode (.ldB x))))

/-- `FX55` (R144). -/
def execStRegs (x : Reg) (s : State) : Host.Outcome State Fault Refusal :=
  if inBounds (s.dataAddr + x.val) then
    .next ((s.storeBytes s.dataAddr (s.lowRegs x)).setI (s.indexAfterBlock x)).advance
  else .next (s.raise .outOfBoundsAccess (some (encode (.stRegs x))))

/-- `FX65` (R145). -/
def execLdRegs (x : Reg) (s : State) : Host.Outcome State Fault Refusal :=
  if inBounds (s.dataAddr + x.val) then
    .next ((s.setLowRegs (s.loadBytes s.dataAddr (x.val + 1))).setI (s.indexAfterBlock x)).advance
  else .next (s.raise .outOfBoundsAccess (some (encode (.ldRegs x))))

end Sys2Proof.Machine
end

