-- ==== Sys2Proof/Machine/Events.lean ====
section
/-! DEFINITION. The operations of the agents other than the CPU, and the outputs (60_exceptions.md sections 5, 6 and 8,
70_reset_and_hazards.md sections 1 and 2). -/

namespace Sys2Proof.Machine

/-- One count of a timer: down by 1, never below 0 (R205). -/
def countDown (b : Byte) : Byte := if 0 < b.toNat then b - 1 else b

/-- `tick()`, in every run state (R205, R206). -/
def State.tick (s : State) : State := (s.setDt (countDown s.dt)).setSt (countDown s.st)

/-- `set_key(code, pressed)`, in every run state (R207). -/
def State.setKey (s : State) (code : KeyCode) (pressed : Bool) : State := { s with key := s.key.set code.val pressed }

/-- `notify_key_press(code)`: completes a pending `FX0A`, and is ignored otherwise (R208, R172). -/
def State.notifyKeyPress (s : State) (code : KeyCode) : State :=
  match s.run with
  | .awaitKey x => ((s.setReg x (BitVec.ofNat 8 code.val)).setPc (s.pc + 2)).setRun .ready
  | .ready => s
  | .halted => s

/-- The address programs are loaded at and execution begins at (R6, R234). -/
abbrev loadAddr : Nat := 0x200

/-- The size of the largest program (R6, R236). -/
abbrev romMax : Nat := 3584

/-- What `load_program` answers the host (R199, R236). -/
inductive LoadResult where
  | ok
  | romTooLarge
  deriving DecidableEq, Repr

/-- `load_program(bytes)`: all or nothing, MEM only, in any run state (R236). -/
def State.loadProgram (s : State) (bytes : List Byte) : LoadResult × State :=
  if romMax < bytes.length then (.romTooLarge, s) else (.ok, s.storeBytes loadAddr bytes)

/-- `reset()` of a machine in any state: its construction under the same configuration (R230, R232). What is not the machine's
own, the draws already made and the operations still scheduled, goes on. -/
def State.hostReset (s : State) : State :=
  { State.constructed s.cfg with draws := s.draws, schedule := s.schedule }

/-- The output `pixel_at(x, y)` (R211). -/
def State.pixelAt (s : State) (x : Fin 64) (y : Fin 32) : Bool := s.fb.pixel x.val y.val

/-- The output `tone` (R212). -/
def State.tone (s : State) : Bool := decide (0 < s.st.toNat)

/-- The output `status`: RUN and FAULT (R213). -/
structure Status where
  run : RunState
  fault : Option FaultRecord
  deriving DecidableEq, Repr

/-- The output `status` (R213). -/
def State.status (s : State) : Status := ⟨s.run, s.fault⟩

end Sys2Proof.Machine
end

