-- ==== Sys2Proof/Machine/Step.lean ====
section
/-! DEFINITION. The CPU's `step()` (40_step_cycle.md R90 to R96), and one step of the whole machine: the next operation of the
agents' total order (60_exceptions.md R209). -/

namespace Sys2Proof.Machine

/-- Fetch, decode, execute (R91 to R94). -/
def executeOne (s : State) : Host.Outcome State Fault Refusal :=
  match s.fetchWord with
  | none => .next (s.raise .outOfBoundsAccess none)
  | some w =>
    match decodeWord w with
    | .ok i => exec i s
    | .error _ => .next (s.unknownWord w)

/-- The CPU's `step()` (R90): one instruction when Ready, nothing in AwaitKey and in Halted. -/
def cpuStep (s : State) : Host.Outcome State Fault Refusal :=
  match s.run with
  | .ready => executeOne s
  | .awaitKey _ => .next s
  | .halted => .next s

/-- One operation of an agent (R9). The answer of `load_program` goes to the host and leaves nothing in the machine. -/
def perform (op : Operation) (s : State) : Host.Outcome State Fault Refusal :=
  match op with
  | .step => cpuStep s
  | .tick => .next s.tick
  | .setKey code pressed => .next (s.setKey code pressed)
  | .notifyKeyPress code => .next (s.notifyKeyPress code)
  | .loadProgram bytes => .next (s.loadProgram bytes).2
  | .reset => .next s.hostReset

/-- One step of the machine: the first scheduled operation, or the CPU's `step()` when none is scheduled (R209, log 6). -/
def step (s : State) : Host.Outcome State Fault Refusal :=
  match s.schedule with
  | [] => cpuStep s
  | op :: rest => perform op (s.setSchedule rest)

/-- `s` with the instruction of `nbits` bits numbered `w` placed where `step` fetches its next instruction (log 22). -/
def State.withFetchWord (s : State) (nbits w : Nat) : State := s.placeWord (tableWord nbits w)

end Sys2Proof.Machine
end

