-- ==== Sys2Proof/Safety.lean ====
section
/-! DEFINITION. The terms that claims about the machine use: parts of the state and frames, what counts as a safe run, the
invariants, the classes of instructions the spec's whole-machine rules name, and the sprite as a set of pixels. -/

namespace Sys2Proof.Machine

/-! ## Parts of the state and frames -/

/-- The parts of the state. -/
inductive Part where
  | v
  | i
  | pc
  | stack
  | dt
  | st
  | fb
  | key
  | mem
  | run
  | fault
  | cfg
  | draws
  | schedule
  deriving DecidableEq, Repr

/-- A part is the same in two states. The stack is its depth and all its slots; the memory is compared byte by byte, by what is
read at every address; the display pixel by pixel. -/
def Part.Same (s t : State) : Part → Prop
  | .v => ∀ r, t.reg r = s.reg r
  | .i => t.i = s.i
  | .pc => t.pc = s.pc
  | .stack => t.sp = s.sp ∧ t.stack = s.stack
  | .dt => t.dt = s.dt
  | .st => t.st = s.st
  | .fb => ∀ x y, t.pixelAt x y = s.pixelAt x y
  | .key => ∀ k, t.isPressed k = s.isPressed k
  | .mem => ∀ a, t.load a = s.load a
  | .run => t.run = s.run
  | .fault => t.fault = s.fault
  | .cfg => t.cfg = s.cfg
  | .draws => t.draws = s.draws
  | .schedule => t.schedule = s.schedule

/-- The frame: every part not listed is the same in `t` as in `s`. -/
def Frame (changed : List Part) (s t : State) : Prop := ∀ p, p ∉ changed → Part.Same s t p

/-! ## Safe runs -/

/-- No fault has been taken: the safety condition of claims (92_eei_decisions.md D11). -/
def State.faultFree (s : State) : Bool := s.fault.isNone

/-- No fault is taken in `k` steps, whatever operations the schedule lists. -/
def safeRun : Nat → State → Bool
  | 0, s => s.faultFree
  | k + 1, s =>
    s.faultFree &&
      match step s with
      | .next t => safeRun k t
      | .fault _ => false
      | .refused _ => false

/-! ## Invariants -/

/-- The memory is in canonical form. -/
def State.memCanonical (s : State) : Prop := Memory.wf s.cfg s.mem = true

/-- `FAULT != none` exactly when `RUN = Halted` (10_state.md R36). -/
def State.haltedIffFault (s : State) : Prop := s.run = .halted ↔ s.fault ≠ none

/-- The stack entries in use are return addresses, at most 4096 (41_control_flow.md R102). -/
def State.returnsInRange (s : State) : Prop := ∀ k : Fin 16, k.val < s.sp.val → s.stack[k.val].toNat ≤ 4096

/-- PC stays where 10_state.md R29 says it can be: at most 0x10FE, and at most 4094 while an `FX0A` waits. -/
def State.pcInRange (s : State) : Prop :=
  s.pc.toNat ≤ 0x10FE ∧ (∀ x, s.run = .awaitKey x → s.pc.toNat ≤ 4094) ∧ s.returnsInRange

end Sys2Proof.Machine

namespace Sys2Proof

open Machine

/-! ## Encodings -/

/-- The word of number `n`, and no other, is the instruction `i` (30_encoding.md R71, R73). -/
def Encodes (i : Instr) (n : Nat) : Prop := ∀ w : Word, decodeWord w = .ok i ↔ w.toNat = n

/-! ## Classes of instructions -/

/-- The fault that an instruction can raise by itself, once fetched and decoded; `none` for the other 28 (60_exceptions.md R191). -/
def Instr.ownFault : Instr → Option Fault
  | .ret => some .stackUnderflow
  | .call _ => some .stackOverflow
  | .drw _ _ _ | .ldB _ | .stRegs _ | .ldRegs _ => some .outOfBoundsAccess
  | .cls | .jp _ | .seImm _ _ | .sneImm _ _ | .seReg _ _ | .ldImm _ _ | .addImm _ _ | .ldReg _ _ | .orReg _ _ | .andReg _ _
  | .xorReg _ _ | .addReg _ _ | .sub _ _ | .shr _ _ | .subn _ _ | .shl _ _ | .sneReg _ _ | .ldI _ | .jpOff _ | .rnd _ _ | .skp _
  | .sknp _ | .ldVxDt _ | .ldVxK _ | .ldDtVx _ | .ldStVx _ | .addI _ | .ldF _ => none

/-- The instructions that write VF as a flag (10_state.md R23). -/
def Instr.writesFlag (cfg : Config) : Instr → Bool
  | .addReg _ _ | .sub _ _ | .shr _ _ | .subn _ _ | .shl _ _ | .drw _ _ _ => true
  | .addI _ => cfg.fx1eSetsVf
  | .cls | .ret | .jp _ | .call _ | .seImm _ _ | .sneImm _ _ | .seReg _ _ | .ldImm _ _ | .addImm _ _ | .ldReg _ _ | .orReg _ _
  | .andReg _ _ | .xorReg _ _ | .sneReg _ _ | .ldI _ | .jpOff _ | .rnd _ _ | .skp _ | .sknp _ | .ldVxDt _ | .ldVxK _ | .ldDtVx _
  | .ldStVx _ | .ldF _ | .ldB _ | .stRegs _ | .ldRegs _ => false

/-- The instructions that write VX as their destination, and VF when X is F (10_state.md R21). -/
def Instr.destination : Instr → List Reg
  | .ldImm x _ | .addImm x _ | .ldReg x _ | .orReg x _ | .andReg x _ | .xorReg x _ | .addReg x _ | .sub x _ | .shr x _ | .subn x _
  | .shl x _ | .rnd x _ | .ldVxDt x => [x]
  | .ldRegs x => (List.finRange 16).filter fun k => decide (k ≤ x)
  | .cls | .ret | .jp _ | .call _ | .seImm _ _ | .sneImm _ _ | .seReg _ _ | .sneReg _ _ | .ldI _ | .jpOff _ | .drw _ _ _ | .skp _
  | .sknp _ | .ldVxK _ | .ldDtVx _ | .ldStVx _ | .addI _ | .ldF _ | .ldB _ | .stRegs _ => []

/-- The parts of the state an instruction may change, RUN and FAULT included where it can fault; the complete list of the
instructions' effects (41_control_flow.md to 45_keypad_timers.md, 20_memory.md R56). -/
def Instr.mayChange (cfg : Config) : Instr → List Part
  | .cls => [.pc, .fb]
  | .ret | .call _ => [.pc, .stack, .run, .fault]
  | .jp _ | .jpOff _ | .seImm _ _ | .sneImm _ _ | .seReg _ _ | .sneReg _ _ | .skp _ | .sknp _ => [.pc]
  | .ldImm _ _ | .addImm _ _ | .ldReg _ _ | .orReg _ _ | .andReg _ _ | .xorReg _ _ | .addReg _ _ | .sub _ _ | .shr _ _ | .subn _ _
  | .shl _ _ | .ldVxDt _ => [.pc, .v]
  | .rnd _ _ => [.pc, .v, .draws]
  | .drw _ _ _ => [.pc, .v, .fb, .run, .fault]
  | .ldVxK _ => [.run]
  | .ldDtVx _ => [.pc, .dt]
  | .ldStVx _ => [.pc, .st]
  | .ldI _ | .ldF _ => [.pc, .i]
  | .addI _ => if cfg.fx1eSetsVf then [.pc, .i, .v] else [.pc, .i]
  | .ldB _ => [.pc, .mem, .run, .fault]
  | .stRegs _ => if cfg.loadStoreIncI then [.pc, .mem, .i, .run, .fault] else [.pc, .mem, .run, .fault]
  | .ldRegs _ => if cfg.loadStoreIncI then [.pc, .v, .i, .run, .fault] else [.pc, .v, .run, .fault]

end Sys2Proof

namespace Sys2Proof.Machine

/-! ## Shapes of an outcome -/

/-- The outcome is the taking of a fault: RUN = Halted, FAULT names the cause, the PC of the faulting instruction and its word, and
nothing else has changed (60_exceptions.md R193, R196). -/
def TakesFault (o : Host.Outcome State Fault Refusal) (s : State) (c : Fault) (w : Option Word) : Prop :=
  ∃ t, o = .next t ∧ t.run = .halted ∧ t.fault = some ⟨c, s.pc, w⟩ ∧ Frame [.run, .fault] s t

/-- The outcome moves PC on by 2 and writes the value to VX, and nothing else. -/
def WritesReg (o : Host.Outcome State Fault Refusal) (s : State) (x : Reg) (value : Nat) : Prop :=
  ∃ t, o = .next t ∧ (t.reg x).toNat = value ∧ (∀ r, r ≠ x → t.reg r = s.reg r) ∧ t.pc = s.pc + 2 ∧ Frame [.v, .pc] s t

/-- The outcome moves PC on by 2, writes the value to VX and then the flag to VF, and nothing else. -/
def WritesRegAndFlag (o : Host.Outcome State Fault Refusal) (s : State) (x : Reg) (value flag : Nat) : Prop :=
  ∃ t, o = .next t ∧ (t.reg Reg.vf).toNat = flag ∧ (x ≠ Reg.vf → (t.reg x).toNat = value) ∧
    (∀ r, r ≠ x → r ≠ Reg.vf → t.reg r = s.reg r) ∧ t.pc = s.pc + 2 ∧ Frame [.v, .pc] s t

/-- The outcome sets PC, and changes nothing else. -/
def SetsPc (o : Host.Outcome State Fault Refusal) (s : State) (target : Word) : Prop :=
  ∃ t, o = .next t ∧ t.pc = target ∧ Frame [.pc] s t

/-- The state after a list of operations, each performed in turn (60_exceptions.md R209); `none` if one stops. -/
def performAll : List Operation → State → Option State
  | [], s => some s
  | op :: ops, s =>
    match perform op s with
    | .next t => performAll ops t
    | .fault _ => none
    | .refused _ => none

/-! ## Bytes of memory after a store -/

/-- The byte at an address after `FX55` has stored V0 to VX from I upwards (43_index_memory.md R144). -/
def State.afterStoredRegs (s : State) (x : Reg) (a : Nat) : Byte :=
  if s.dataAddr ≤ a ∧ a ≤ s.dataAddr + x.val then s.reg (Fin.ofNat 16 (a - s.dataAddr)) else s.load a

/-- The byte at an address, as a number, after `FX33` has stored the digits of VX from I upwards (43_index_memory.md R143). -/
def State.afterStoredDigits (s : State) (x : Reg) (a : Nat) : Nat :=
  if a = s.dataAddr then (s.reg x).toNat / 100
  else if a = s.dataAddr + 1 then (s.reg x).toNat / 10 % 10
  else if a = s.dataAddr + 2 then (s.reg x).toNat % 10
  else (s.load a).toNat

/-- The byte at an address after `load_program` has copied the bytes to 0x200 upwards (70_reset_and_hazards.md R236). -/
def State.afterLoaded (s : State) (bytes : List Byte) (a : Nat) : Byte :=
  if 0x200 ≤ a ∧ a < 0x200 + bytes.length then bytes.getD (a - 0x200) 0 else s.load a

/-! ## Sprites -/

/-- Whether the sprite of a `DXYN` has a set bit that lands on the pixel (x, y) (44_display.md R162, R163): pixel (c, r) of the
sprite is bit 7 - c of byte r; it lands on ((vx mod 64) + c, (vy mod 32) + r), taken modulo 64 and 32 unless the machine clips. -/
def spriteCovers (clip : Bool) (vx vy : Byte) (sprite : List Byte) (x y : Nat) : Prop :=
  ∃ c r, c < 8 ∧ r < sprite.length ∧ (sprite.getD r 0).getLsbD (7 - c) = true ∧
    if clip then vx.toNat % 64 + c = x ∧ vy.toNat % 32 + r = y
    else (vx.toNat % 64 + c) % 64 = x ∧ (vy.toNat % 32 + r) % 32 = y

/-- The sprite bytes that a `DXYN` reads: N bytes from I upwards (44_display.md R161). -/
def State.spriteBytes (s : State) (n : Nibble) : List Byte := s.loadBytes s.dataAddr n.toNat

end Sys2Proof.Machine
end

