-- ==== Sys2Proof/Certificates/Slice0/Obligations.lean ====
section
/-! DEFINITION. The statements about the model, for the provers: what the numbered rules of spec/ say the instructions and the
machine do. `Frame parts s t` says that everything of the state but the named parts is the same in `t` as in `s`, memory and display
compared by what is read of them. Where a statement rests on one of the spec's own decisions (92_eei_decisions.md) or on a choice
of the model (a log entry), its docstring says so. -/

open Sys2Proof Sys2Proof.Machine

/-! ## Encoding -/

/-- Words written out from the patterns of 30_encoding.md R73 (the vectors T1 of 95_test_vectors.md) decode to their instructions,
and words of no pattern to none. -/
def Obligations.WrittenWordsDecode : Prop :=
  decodeWord 0x00EE = .ok .ret ∧ decodeWord 0x2F00 = .ok (.call 0xF00) ∧ decodeWord 0x3A7F = .ok (.seImm 0xA 0x7F) ∧
  decodeWord 0x8126 = .ok (.shr 1 2) ∧ decodeWord 0x8FFE = .ok (.shl 0xF 0xF) ∧ decodeWord 0xB2F0 = .ok (.jpOff 0x2F0) ∧
  decodeWord 0xD7A5 = .ok (.drw 7 0xA 5) ∧ decodeWord 0xE5A1 = .ok (.sknp 5) ∧ decodeWord 0xF433 = .ok (.ldB 4) ∧
  decodeWord 0x0000 = .error .unknownClass0 ∧ decodeWord 0x800D = .error .unknownClass8

/-- Decode and encode agree: the bytes of an instruction, whatever follows them, decode to that instruction and leave the rest. -/
def Obligations.DecodeOfEncodedBytes : Prop :=
  ∀ (i : Instr) (rest : List Byte), decode (bytesOfWord (encode i) ++ rest) = .ok (i, rest)

/-- Every word that decodes is the word of the instruction it decodes to: no word has a second spelling (30_encoding.md R78). -/
def Obligations.EncodeOfDecodedWord : Prop :=
  ∀ (w : Word) (i : Instr), decodeWord w = .ok i → encode i = w

/-- "A word w is the instruction of a row when w AND mask = match", and no word matches two rows (30_encoding.md R73): a word that
decodes matches its instruction's row, and a word that matches an instruction's row decodes to an instruction of that very row. -/
def Obligations.WordsBelongToTheirRow : Prop :=
  (∀ (w : Word) (i : Instr), decodeWord w = .ok i → i.row.accepts w = true) ∧
  (∀ (w : Word) (i : Instr), i.row.accepts w = true → ∃ j, decodeWord w = .ok j ∧ j.row = i.row)

/-- The unknown words are exactly those of the table of 30_encoding.md R76, each rejected by its class. -/
def Obligations.UnknownWordsAreTheTables : Prop :=
  ∀ w : Word,
    (decodeWord w = .error .unknownClass0 ↔ w.toNat / 4096 = 0 ∧ w ≠ 0x00E0 ∧ w ≠ 0x00EE) ∧
    (decodeWord w = .error .unknownClass5 ↔ w.toNat / 4096 = 5 ∧ w.toNat % 16 ≠ 0) ∧
    (decodeWord w = .error .unknownClass8 ↔ w.toNat / 4096 = 8 ∧ w.toNat % 16 ∈ [8, 9, 0xA, 0xB, 0xC, 0xD, 0xF]) ∧
    (decodeWord w = .error .unknownClass9 ↔ w.toNat / 4096 = 9 ∧ w.toNat % 16 ≠ 0) ∧
    (decodeWord w = .error .unknownClassE ↔ w.toNat / 4096 = 0xE ∧ w.toNat % 256 ∉ [0x9E, 0xA1]) ∧
    (decodeWord w = .error .unknownClassF ↔
      w.toNat / 4096 = 0xF ∧ w.toNat % 256 ∉ [0x07, 0x0A, 0x15, 0x18, 0x1E, 0x29, 0x33, 0x55, 0x65]) ∧
    decodeWord w ≠ .error .truncated

/-! ## The step -/

/-- A step runs the decoded instruction: when the machine is Ready, the next operation is the CPU's step (none is scheduled, or
`step` is scheduled first), and the word at PC decodes to `i`, the machine's step is `exec i` at that state, with the scheduled
operation taken off. Nothing else is added: the advance of PC is in the meaning (40_step_cycle.md R92, R93; the schedule is the
model's own, log 6). -/
def Obligations.StepRunsDecodedInstruction : Prop :=
  ∀ (s : State) (w : Word) (i : Instr), s.run = .ready → s.fetchWord = some w → decodeWord w = .ok i → i.wellFormed = true →
    (s.schedule = [] → step s = exec i s) ∧
    (∀ rest, s.schedule = .step :: rest → step s = exec i (s.setSchedule rest))

/-- The fetch: the big-endian word at PC and PC + 1 when both addresses exist, and an OutOfBoundsAccess fault of the CPU's step with
no word recorded when PC + 1 is above 4095 (40_step_cycle.md R91). -/
def Obligations.FetchReadsTwoBytesOrFaults : Prop :=
  ∀ s : State,
    (s.pc.toNat + 1 ≤ 4095 → ∃ w, s.fetchWord = some w ∧
      w.toNat = (s.load s.pc.toNat).toNat * 256 + (s.load (s.pc.toNat + 1)).toNat) ∧
    (4095 < s.pc.toNat + 1 → s.run = .ready → TakesFault (cpuStep s) s .outOfBoundsAccess none)

/-- An unknown word faults under the policy `halt`, PC staying at it, and is a no-op of 2 bytes under `skip` (40_step_cycle.md R94,
60_exceptions.md R198; that no record of a skipped word is kept is the spec's decision D18). -/
def Obligations.UnknownWordHaltsOrSkips : Prop :=
  ∀ (s : State) (w : Word) (e : DecodeError), s.run = .ready → s.fetchWord = some w → decodeWord w = .error e →
    (s.cfg.unknownOpcodePolicy = .halt → TakesFault (cpuStep s) s .unknownOpcode (some w)) ∧
    (s.cfg.unknownOpcodePolicy = .skip → SetsPc (cpuStep s) s (s.pc + 2))

/-- A step in AwaitKey and a step in Halted change nothing (40_step_cycle.md R90; for Halted, the spec's decision D11). -/
def Obligations.StepIdlesUnlessReady : Prop :=
  ∀ s : State, s.run ≠ .ready → cpuStep s = .next s

/-- The machine performs the scheduled operations of the agents one at a time, in order (60_exceptions.md R209; that the order
stands in the state is the model's choice, log 6). -/
def Obligations.ScheduleIsPerformedInOrder : Prop :=
  ∀ (s : State) (op : Operation) (rest : List Operation), s.schedule = op :: rest →
    step s = perform op (s.setSchedule rest) ∧ ∃ t, step s = .next t ∧ t.schedule = rest

/-- The machine never stops: every step of every state has a next state, since the spec describes what each fault does to the
machine (log 7). -/
def Obligations.EveryStepHasANextState : Prop := ∀ s : State, ∃ t, step s = .next t

/-- A store by `FX55` or `FX33`, and a `load_program`, is seen by the very next fetch, whichever of the fetched bytes it covers: both,
one or none (20_memory.md R61, which the spec marks derived; that the digits of `FX33` are stored hundreds first is the spec's
decision D34, log 19, and that a load changes no byte but those it copies is D23, log 18). -/
def Obligations.StoreIsSeenByNextFetch : Prop :=
  (∀ (x : Reg) (s : State), s.pc.toNat + 3 ≤ 4095 → s.dataAddr + x.val ≤ 4095 →
    ∃ t w, exec (.stRegs x) s = .next t ∧ t.fetchWord = some w ∧
      w.toNat = (s.afterStoredRegs x (s.pc.toNat + 2)).toNat * 256 + (s.afterStoredRegs x (s.pc.toNat + 3)).toNat) ∧
  (∀ (x : Reg) (s : State), s.pc.toNat + 3 ≤ 4095 → s.dataAddr + 2 ≤ 4095 →
    ∃ t w, exec (.ldB x) s = .next t ∧ t.fetchWord = some w ∧
      w.toNat = s.afterStoredDigits x (s.pc.toNat + 2) * 256 + s.afterStoredDigits x (s.pc.toNat + 3)) ∧
  (∀ (bytes : List Byte) (s : State), s.pc.toNat + 1 ≤ 4095 → bytes.length ≤ 3584 →
    ∃ t w, perform (.loadProgram bytes) s = .next t ∧ t.fetchWord = some w ∧
      w.toNat = (s.afterLoaded bytes s.pc.toNat).toNat * 256 + (s.afterLoaded bytes (s.pc.toNat + 1)).toNat)

/-! ## Control transfer -/

/-- `00EE`: StackUnderflow on an empty stack; otherwise the newest entry becomes PC and is taken off, its slot left in place
(41_control_flow.md R100). -/
def Obligations.ReturnPopsTheStack : Prop :=
  ∀ s : State,
    (s.sp.val = 0 → TakesFault (exec .ret s) s .stackUnderflow (some 0x00EE)) ∧
    (∀ k : Fin 16, s.sp.val = k.val + 1 →
      ∃ t, exec .ret s = .next t ∧ t.pc = s.stack[k.val] ∧ t.sp.val = k.val ∧ t.stack = s.stack ∧ Frame [.pc, .stack] s t)

/-- `1NNN`: PC := NNN, nothing checked and nothing pushed (41_control_flow.md R101). -/
def Obligations.JumpSetsPc : Prop :=
  ∀ (nnn : Imm12), Encodes (.jp nnn) (0x1000 + nnn.toNat) ∧
    ∀ s : State, ∃ t, exec (.jp nnn) s = .next t ∧ t.pc.toNat = nnn.toNat ∧ Frame [.pc] s t

/-- `2NNN`: StackOverflow on a stack of 16 entries; otherwise the address of the next instruction is pushed and PC := NNN
(41_control_flow.md R102). -/
def Obligations.CallPushesReturnAddress : Prop :=
  ∀ (nnn : Imm12) (s : State),
    (s.sp.val = 16 → TakesFault (exec (.call nnn) s) s .stackOverflow (some (encode (.call nnn)))) ∧
    (s.sp.val < 16 → ∃ t, exec (.call nnn) s = .next t ∧ t.pc.toNat = nnn.toNat ∧ t.sp.val = s.sp.val + 1 ∧
      (∀ k : Fin 16, t.stack[k.val] = if k.val = s.sp.val then s.pc + 2 else s.stack[k.val]) ∧ Frame [.pc, .stack] s t)

/-- A call followed by a return comes back to the instruction after the call, with every stack entry in use as it was (95, S8;
41_control_flow.md R100, R102). -/
def Obligations.CallThenReturnComesBack : Prop :=
  ∀ (nnn : Imm12) (s : State), s.sp.val < 16 →
    ∃ t u, exec (.call nnn) s = .next t ∧ exec .ret t = .next u ∧ u.pc = s.pc + 2 ∧ u.sp = s.sp ∧
      (∀ k : Fin 16, k.val < s.sp.val → u.stack[k.val] = s.stack[k.val]) ∧ Frame [.pc, .stack] s u

/-- `BNNN`: PC := NNN + V0, or NNN + VX with X the top nibble of NNN, by the configuration (41_control_flow.md R103; not reduced
modulo 4096 by the spec's decision D25). -/
def Obligations.OffsetJumpAddsRegister : Prop :=
  ∀ (nnn : Imm12) (x : Reg) (s : State), x.val = nnn.toNat / 256 →
    ∃ t, exec (.jpOff nnn) s = .next t ∧ Frame [.pc] s t ∧
      (s.cfg.jumpOffsetReg = .v0 → t.pc.toNat = (nnn.toNat + (s.reg 0).toNat) % 65536) ∧
      (s.cfg.jumpOffsetReg = .vx → t.pc.toNat = (nnn.toNat + (s.reg x).toNat) % 65536)

/-- `3XNN` and `4XNN`: PC := pc0 + 4 when VX = NN (VX ≠ NN), and pc0 + 2 otherwise; nothing else changes (41_control_flow.md R104,
R105). -/
def Obligations.SkipsComparingImmediate : Prop :=
  ∀ (x : Reg) (nn : Byte),
    Encodes (.seImm x nn) (0x3000 + 256 * x.val + nn.toNat) ∧ Encodes (.sneImm x nn) (0x4000 + 256 * x.val + nn.toNat) ∧
    ∀ s : State,
      SetsPc (exec (.seImm x nn) s) s (if s.reg x = nn then s.pc + 4 else s.pc + 2) ∧
      SetsPc (exec (.sneImm x nn) s) s (if s.reg x ≠ nn then s.pc + 4 else s.pc + 2)

/-- `5XY0` and `9XY0`: PC := pc0 + 4 when VX = VY (VX ≠ VY), and pc0 + 2 otherwise; nothing else changes (41_control_flow.md R106,
R107). -/
def Obligations.SkipsComparingRegisters : Prop :=
  ∀ x y : Reg,
    Encodes (.seReg x y) (0x5000 + 256 * x.val + 16 * y.val) ∧ Encodes (.sneReg x y) (0x9000 + 256 * x.val + 16 * y.val) ∧
    ∀ s : State,
      SetsPc (exec (.seReg x y) s) s (if s.reg x = s.reg y then s.pc + 4 else s.pc + 2) ∧
      SetsPc (exec (.sneReg x y) s) s (if s.reg x ≠ s.reg y then s.pc + 4 else s.pc + 2)

/-! ## Load, arithmetic, logic, shifts, random -/

/-- `6XNN`, `7XNN` and `8XY0`: VX := NN, VX := (VX + NN) mod 256, VX := VY; VF changes only as the destination (42_load_alu.md R120,
R121, R122). -/
def Obligations.LoadsAndImmediateAdd : Prop :=
  ∀ (x y : Reg) (nn : Byte),
    Encodes (.ldImm x nn) (0x6000 + 256 * x.val + nn.toNat) ∧ Encodes (.addImm x nn) (0x7000 + 256 * x.val + nn.toNat) ∧
    Encodes (.ldReg x y) (0x8000 + 256 * x.val + 16 * y.val) ∧
    ∀ s : State,
      WritesReg (exec (.ldImm x nn) s) s x nn.toNat ∧
      WritesReg (exec (.addImm x nn) s) s x (((s.reg x).toNat + nn.toNat) % 256) ∧
      WritesReg (exec (.ldReg x y) s) s x (s.reg y).toNat

/-- `8XY1`, `8XY2` and `8XY3`: VX := VX OR, AND, XOR VY; VF changes only as the destination (42_load_alu.md R123, R124, R125). -/
def Obligations.LogicLeavesTheFlag : Prop :=
  ∀ (x y : Reg) (s : State),
    WritesReg (exec (.orReg x y) s) s x ((s.reg x).toNat ||| (s.reg y).toNat) ∧
    WritesReg (exec (.andReg x y) s) s x ((s.reg x).toNat &&& (s.reg y).toNat) ∧
    WritesReg (exec (.xorReg x y) s) s x ((s.reg x).toNat ^^^ (s.reg y).toNat)

/-- `8XY4`: VX := (VX + VY) mod 256, then VF := 1 if VX + VY > 255 else 0; with X = F the flag remains (42_load_alu.md R126). -/
def Obligations.AddSetsCarry : Prop :=
  ∀ (x y : Reg) (s : State),
    WritesRegAndFlag (exec (.addReg x y) s) s x (((s.reg x).toNat + (s.reg y).toNat) % 256)
      (if (s.reg x).toNat + (s.reg y).toNat > 255 then 1 else 0)

/-- `8XY5` and `8XY7`: VX := (VX - VY) mod 256 (VY - VX), then VF := NOT borrow; with X = F the flag remains (42_load_alu.md R127,
R129). -/
def Obligations.SubtractSetsNotBorrow : Prop :=
  ∀ (x y : Reg) (s : State),
    WritesRegAndFlag (exec (.sub x y) s) s x (((s.reg x).toNat + 256 - (s.reg y).toNat) % 256)
      (if (s.reg x).toNat ≥ (s.reg y).toNat then 1 else 0) ∧
    WritesRegAndFlag (exec (.subn x y) s) s x (((s.reg y).toNat + 256 - (s.reg x).toNat) % 256)
      (if (s.reg y).toNat ≥ (s.reg x).toNat then 1 else 0)

/-- `8XY6` and `8XYE`: the source, VX or VY by the configuration, shifted by one into VX, then VF := the bit shifted out; with X = F
the flag remains (42_load_alu.md R128, R130). -/
def Obligations.ShiftsSetTheBitOut : Prop :=
  ∀ (x y src : Reg) (s : State), (src = match s.cfg.shiftSrc with | .vx => x | .vy => y) →
    WritesRegAndFlag (exec (.shr x y) s) s x ((s.reg src).toNat / 2) ((s.reg src).toNat % 2) ∧
    WritesRegAndFlag (exec (.shl x y) s) s x ((s.reg src).toNat * 2 % 256) ((s.reg src).toNat / 128)

/-- `CXNN`: VX := draw8() AND NN, one draw is spent, and nothing else changes; so a bit that is 0 in NN is 0 in VX (42_load_alu.md
R132). The drawn byte is the free value of log 5: the statement holds for every byte it may be. -/
def Obligations.RandomByteIsMasked : Prop :=
  ∀ (x : Reg) (nn : Byte) (s : State),
    ∃ t, exec (.rnd x nn) s = .next t ∧ t.reg x = Config.draw8 s.draws &&& nn ∧ (∀ r, r ≠ x → t.reg r = s.reg r) ∧
      (∀ k, nn.getLsbD k = false → (t.reg x).getLsbD k = false) ∧ t.draws = s.draws + 1 ∧ t.pc = s.pc + 2 ∧
      Frame [.v, .pc, .draws] s t

/-! ## Index register and memory -/

/-- `ANNN`: I := NNN (43_index_memory.md R140). -/
def Obligations.LoadIndexImmediate : Prop :=
  ∀ (nnn : Imm12), Encodes (.ldI nnn) (0xA000 + nnn.toNat) ∧
    ∀ s : State, ∃ t, exec (.ldI nnn) s = .next t ∧ t.i.toNat = nnn.toNat ∧ t.pc = s.pc + 2 ∧ Frame [.i, .pc] s t

/-- `FX1E`: I := (I + VX) mod 65536; VF is untouched unless the configuration says that it reports a sum above 0xFFF
(43_index_memory.md R141; the exact effect of the quirk is the spec's decision D13, the modulus D7). -/
def Obligations.AddToIndexAndConfiguredFlag : Prop :=
  ∀ (x : Reg) (s : State),
    ∃ t, exec (.addI x) s = .next t ∧ t.i.toNat = (s.i.toNat + (s.reg x).toNat) % 65536 ∧ t.pc = s.pc + 2 ∧
      Frame [.i, .pc, .v] s t ∧ (∀ r, r ≠ Reg.vf → t.reg r = s.reg r) ∧
      (t.reg Reg.vf).toNat =
        if s.cfg.fx1eSetsVf = true then (if s.i.toNat + (s.reg x).toNat > 0x0FFF then 1 else 0) else (s.reg Reg.vf).toNat

/-- `FX29`: I := FONT_BASE + 5 * the low nibble of VX (43_index_memory.md R142; the low nibble is the spec's decision D5). -/
def Obligations.GlyphAddressOfDigit : Prop :=
  ∀ (x : Reg) (s : State),
    ∃ t, exec (.ldF x) s = .next t ∧ t.i.toNat = s.cfg.fontBase.val + 5 * ((s.reg x).toNat % 16) ∧ t.pc = s.pc + 2 ∧
      Frame [.i, .pc] s t

/-- `FX33`: the hundreds, tens and ones of VX at I, I + 1, I + 2; every other byte of memory unchanged; OutOfBoundsAccess, and nothing
written, when I + 2 is above 4095 (43_index_memory.md R143; the order of the digits is the spec's decision D34). -/
def Obligations.DecimalDigitsAreStored : Prop :=
  ∀ (x : Reg) (s : State),
    (4095 < s.dataAddr + 2 → TakesFault (exec (.ldB x) s) s .outOfBoundsAccess (some (encode (.ldB x)))) ∧
    (s.dataAddr + 2 ≤ 4095 → ∃ t, exec (.ldB x) s = .next t ∧
      (t.load s.dataAddr).toNat = (s.reg x).toNat / 100 ∧
      (t.load (s.dataAddr + 1)).toNat = (s.reg x).toNat / 10 % 10 ∧
      (t.load (s.dataAddr + 2)).toNat = (s.reg x).toNat % 10 ∧
      (∀ a, ¬ (s.dataAddr ≤ a ∧ a < s.dataAddr + 3) → t.load a = s.load a) ∧ t.pc = s.pc + 2 ∧ Frame [.mem, .pc] s t)

/-- `FX55`: V0 to VX at I to I + X; every other byte of memory unchanged; I advanced by X + 1 or unchanged by the configuration;
OutOfBoundsAccess, and nothing written, when I + X is above 4095 (43_index_memory.md R144). -/
def Obligations.RegistersAreStored : Prop :=
  ∀ (x : Reg) (s : State),
    (4095 < s.dataAddr + x.val → TakesFault (exec (.stRegs x) s) s .outOfBoundsAccess (some (encode (.stRegs x)))) ∧
    (s.dataAddr + x.val ≤ 4095 → ∃ t, exec (.stRegs x) s = .next t ∧
      (∀ k : Reg, k ≤ x → t.load (s.dataAddr + k.val) = s.reg k) ∧
      (∀ a, ¬ (s.dataAddr ≤ a ∧ a < s.dataAddr + x.val + 1) → t.load a = s.load a) ∧
      t.i.toNat = (if s.cfg.loadStoreIncI = true then (s.i.toNat + x.val + 1) % 65536 else s.i.toNat) ∧
      t.pc = s.pc + 2 ∧ Frame [.mem, .i, .pc] s t)

/-- `FX65`: V0 to VX from I to I + X; registers above VX unchanged, memory unchanged; I advanced by X + 1 or unchanged by the
configuration; OutOfBoundsAccess, and nothing loaded, when I + X is above 4095 (43_index_memory.md R145). -/
def Obligations.RegistersAreLoaded : Prop :=
  ∀ (x : Reg) (s : State),
    (4095 < s.dataAddr + x.val → TakesFault (exec (.ldRegs x) s) s .outOfBoundsAccess (some (encode (.ldRegs x)))) ∧
    (s.dataAddr + x.val ≤ 4095 → ∃ t, exec (.ldRegs x) s = .next t ∧
      (∀ k : Reg, t.reg k = if k ≤ x then s.load (s.dataAddr + k.val) else s.reg k) ∧
      t.i.toNat = (if s.cfg.loadStoreIncI = true then (s.i.toNat + x.val + 1) % 65536 else s.i.toNat) ∧
      t.pc = s.pc + 2 ∧ Frame [.v, .i, .pc] s t)

/-! ## Display -/

/-- `00E0`: every pixel 0, VF and everything else unchanged (44_display.md R160). -/
def Obligations.ClearEmptiesTheDisplay : Prop :=
  Encodes .cls 0x00E0 ∧
    ∀ s : State, ∃ t, exec .cls s = .next t ∧ (∀ x y, t.pixelAt x y = false) ∧ t.pc = s.pc + 2 ∧ Frame [.fb, .pc] s t

/-- `DXYN`: OutOfBoundsAccess, nothing drawn, when N > 0 and I + N - 1 is above 4095; otherwise exactly the pixels that the sprite
covers are inverted, wrapping or clipping by the configuration, and VF := 1 if one of them was set, else 0 (44_display.md R161, R162,
R163; clipping is the spec's decision D17, the bit order D4, N = 0 is D31). -/
def Obligations.DrawInvertsCoveredPixels : Prop :=
  ∀ (x y : Reg) (n : Nibble) (s : State),
    (0 < n.toNat ∧ 4095 < s.dataAddr + n.toNat - 1 →
      TakesFault (exec (.drw x y n) s) s .outOfBoundsAccess (some (encode (.drw x y n)))) ∧
    (n.toNat = 0 ∨ s.dataAddr + n.toNat - 1 ≤ 4095 →
      ∃ t, exec (.drw x y n) s = .next t ∧
        (∀ px py, t.pixelAt px py = true ↔
          (s.pixelAt px py = true ↔
            ¬ spriteCovers s.cfg.spriteClip (s.reg x) (s.reg y) (s.spriteBytes n) px.val py.val)) ∧
        (t.reg Reg.vf = 0 ∨ t.reg Reg.vf = 1) ∧
        (t.reg Reg.vf = 1 ↔ ∃ px py, s.pixelAt px py = true ∧
          spriteCovers s.cfg.spriteClip (s.reg x) (s.reg y) (s.spriteBytes n) px.val py.val) ∧
        (∀ r, r ≠ Reg.vf → t.reg r = s.reg r) ∧ t.pc = s.pc + 2 ∧ Frame [.fb, .v, .pc] s t)

/-- Drawing the same sprite twice restores the display, and the second draw reports a collision exactly when the first turned a pixel
on (44_display.md R164 (1), (2), which the spec marks derived). R164 asks that the second draw read the same VX and VY: so it is when
X and Y are not F, since no other register changes, and when they are F and the first draw left VF as it was. That N = 0 completes
whatever I holds is the spec's decision D31, what is drawn under clipping D17, the bit order D4 (log 11). -/
def Obligations.DrawTwiceRestoresTheDisplay : Prop :=
  ∀ (x y : Reg) (n : Nibble) (s : State), (n.toNat = 0 ∨ s.dataAddr + n.toNat - 1 ≤ 4095) →
    ∃ t u, exec (.drw x y n) s = .next t ∧ exec (.drw x y n) t = .next u ∧ (∀ r, r ≠ Reg.vf → t.reg r = s.reg r) ∧
      (t.reg x = s.reg x → t.reg y = s.reg y →
        (∀ px py, u.pixelAt px py = s.pixelAt px py) ∧
        (u.reg Reg.vf = 1 ↔ ∃ px py, s.pixelAt px py = false ∧ t.pixelAt px py = true))

/-! ## Keypad and timers -/

/-- `EX9E` and `EXA1`: skip when the key selected by the low nibble of VX is pressed (not pressed) (45_keypad_timers.md R170, R171; the
low nibble is the spec's decision D6). -/
def Obligations.KeySkipsTestTheLevel : Prop :=
  ∀ (x : Reg) (k : KeyCode) (s : State), k.val = (s.reg x).toNat % 16 →
    SetsPc (exec (.skp x) s) s (if s.isPressed k = true then s.pc + 4 else s.pc + 2) ∧
    SetsPc (exec (.sknp x) s) s (if s.isPressed k = false then s.pc + 4 else s.pc + 2)

/-- `FX0A`, the step that suspends: RUN := AwaitKey(X), PC stays at the instruction, nothing else changes (45_keypad_timers.md R172;
latching X is the spec's decision D20). -/
def Obligations.KeyWaitSuspends : Prop :=
  ∀ (x : Reg) (s : State), ∃ t, exec (.ldVxK x) s = .next t ∧ t.run = .awaitKey x ∧ t.pc = s.pc ∧ Frame [.run] s t

/-- `notify_key_press(code)` completes a pending `FX0A` and is ignored in Ready and in Halted (60_exceptions.md R208, 45 R172; the
spec's decision D21). -/
def Obligations.KeyPressResumesTheWait : Prop :=
  ∀ (code : KeyCode) (s : State),
    (∀ x, s.run = .awaitKey x → ∃ t, perform (.notifyKeyPress code) s = .next t ∧ t.run = .ready ∧
      (t.reg x).toNat = code.val ∧ (∀ r, r ≠ x → t.reg r = s.reg r) ∧ t.pc = s.pc + 2 ∧ Frame [.run, .v, .pc] s t) ∧
    (s.run = .ready ∨ s.run = .halted → perform (.notifyKeyPress code) s = .next s)

/-- While an `FX0A` waits, steps, ticks and key levels, in any number and order, neither end the wait nor move PC nor change a register
(45_keypad_timers.md R172 (a), (b), (f); the spec's decision D21). -/
def Obligations.WaitOutlastsStepsTicksAndLevels : Prop :=
  ∀ (ops : List Operation) (x : Reg) (s : State), s.run = .awaitKey x →
    (∀ op ∈ ops, op = .step ∨ op = .tick ∨ ∃ code pressed, op = .setKey code pressed) →
    ∃ t, performAll ops s = some t ∧ t.run = .awaitKey x ∧ Frame [.dt, .st, .key] s t

/-- `FX07`, `FX15` and `FX18`: VX := DT, DT := VX, ST := VX (45_keypad_timers.md R173, R174, R175; that every ST above 0
sounds, the spec's decision D32 in R175, is no part of this statement). -/
def Obligations.TimersAreReadAndSet : Prop :=
  ∀ x : Reg,
    Encodes (.ldVxDt x) (0xF007 + 256 * x.val) ∧ Encodes (.ldDtVx x) (0xF015 + 256 * x.val) ∧
    Encodes (.ldStVx x) (0xF018 + 256 * x.val) ∧
    ∀ s : State,
      WritesReg (exec (.ldVxDt x) s) s x s.dt.toNat ∧
      (∃ t, exec (.ldDtVx x) s = .next t ∧ t.dt = s.reg x ∧ t.pc = s.pc + 2 ∧ Frame [.dt, .pc] s t) ∧
      (∃ t, exec (.ldStVx x) s = .next t ∧ t.st = s.reg x ∧ t.pc = s.pc + 2 ∧ Frame [.st, .pc] s t)

/-! ## The other agents' operations and the outputs -/

/-- `tick()`: each timer down by 1 if above 0, on its own condition, in every run state; nothing else changes (60_exceptions.md
R205, R206; that it acts in Halted is the spec's decision D28, log 14). -/
def Obligations.TickCountsTimersDown : Prop :=
  ∀ s : State, ∃ t, perform .tick s = .next t ∧
    t.dt.toNat = (if s.dt.toNat > 0 then s.dt.toNat - 1 else 0) ∧
    t.st.toNat = (if s.st.toNat > 0 then s.st.toNat - 1 else 0) ∧ Frame [.dt, .st] s t

/-- After k ticks a timer has fallen by k and not below 0 (60_exceptions.md R205; 95, S10; in Halted by the spec's decision
D28, log 14). -/
def Obligations.TicksNeverTakeATimerBelowZero : Prop :=
  ∀ (k : Nat) (s : State), ∃ t, performAll (List.replicate k .tick) s = some t ∧
    t.dt.toNat = s.dt.toNat - k ∧ t.st.toNat = s.st.toNat - k ∧ Frame [.dt, .st] s t

/-- `set_key(code, pressed)` writes that key's level and nothing else, in every run state (60_exceptions.md R207; the spec's decision
D21). -/
def Obligations.SetKeyWritesOneLevel : Prop :=
  ∀ (code : KeyCode) (pressed : Bool) (s : State), ∃ t, perform (.setKey code pressed) s = .next t ∧
    (∀ k, t.isPressed k = if k = code then pressed else s.isPressed k) ∧ Frame [.key] s t

/-- `load_program(bytes)`: RomTooLarge and no change for more than 3584 bytes; otherwise the bytes at 0x200 upwards, every other byte of
memory and everything else unchanged (70_reset_and_hazards.md R236; all or nothing is the spec's decision D23). -/
def Obligations.LoadProgramCopiesOrRefuses : Prop :=
  ∀ (bytes : List Byte) (s : State),
    (3584 < bytes.length → s.loadProgram bytes = (.romTooLarge, s) ∧ perform (.loadProgram bytes) s = .next s) ∧
    (bytes.length ≤ 3584 → ∃ t, s.loadProgram bytes = (.ok, t) ∧ perform (.loadProgram bytes) s = .next t ∧
      (∀ k, k < bytes.length → t.load (0x200 + k) = bytes.getD k 0) ∧
      (∀ a, ¬ (0x200 ≤ a ∧ a < 0x200 + bytes.length) → t.load a = s.load a) ∧ Frame [.mem] s t)

/-- `reset()` from any state is the construction of a new machine under the same configuration (70_reset_and_hazards.md R230, R232; that
the draws made and the operations scheduled go on is the model's choice, logs 5 and 6). -/
def Obligations.ResetConstructsTheMachineAnew : Prop :=
  ∀ s : State, ∃ t, perform .reset s = .next t ∧ Frame [.draws, .schedule] (State.constructed s.cfg) t ∧
    t.draws = s.draws ∧ t.schedule = s.schedule

/-- What reset leaves (10_state.md R40, R41, R42): registers, timers, display and stack cleared, PC at 0x200, keys released, Ready without
fault, memory zero but for the font at 0x050 to 0x09F. The font bytes are the spec's general knowledge (D3, log 4), KEY, RUN and FAULT
its decision D22 (log 17). -/
def Obligations.ResetLeavesTheConstructedState : Prop :=
  (∀ r, State.reset.reg r = 0) ∧ State.reset.i = 0 ∧ State.reset.pc = 0x0200 ∧ State.reset.sp = 0 ∧
  (∀ k : Fin 16, State.reset.stack[k.val] = 0) ∧ State.reset.dt = 0 ∧ State.reset.st = 0 ∧
  (∀ x y, State.reset.pixelAt x y = false) ∧ (∀ k, State.reset.isPressed k = false) ∧
  State.reset.run = .ready ∧ State.reset.fault = none ∧
  (∀ j : Fin 80, State.reset.load (0x050 + j.val) = Config.fontTableR42[j.val]) ∧
  (∀ a, a < 0x050 ∨ 0x09F < a → State.reset.load a = 0)

/-- The output `tone` is `ST > 0`, `pixel_at` is FB, `status` is RUN and FAULT (60_exceptions.md R211, R212, R213), whatever else the
state holds: two states that agree on ST, FB, RUN and FAULT give the same outputs. -/
def Obligations.OutputsShowTimerDisplayAndRun : Prop :=
  ∀ s t : State, (s.tone = true ↔ s.st.toNat > 0) ∧ s.status = ⟨s.run, s.fault⟩ ∧
    (s.st = t.st → s.fb = t.fb → s.run = t.run → s.fault = t.fault →
      s.tone = t.tone ∧ (∀ x y, s.pixelAt x y = t.pixelAt x y) ∧ s.status = t.status)

/-! ## Whole-machine rules -/

/-- Which instruction can raise what, complete (60_exceptions.md R191): a step of a Ready machine that halts it has faulted at the
fetch, at the decode, or in `00EE`, `2NNN`, `DXYN`, `FX33`, `FX55`, `FX65`, each with its own cause; the other 28 instructions
complete; the events never fault, and a program above 3584 bytes (R236) is answered to the host without a fault. That reset may be
applied in any state and leaves RUN Ready and FAULT none (R230, R232) is the spec's decision D22, log 17; that the other operations
leave FAULT and RUN alone in Halted is D11, log 14. -/
def Obligations.FaultsComeOnlyWhereListed : Prop :=
  (∀ s t : State, s.run = .ready → cpuStep s = .next t → t.run = .halted →
    ∃ r, t.fault = some r ∧
      ((s.fetchWord = none ∧ r.cause = .outOfBoundsAccess) ∨
       (∃ w e, s.fetchWord = some w ∧ decodeWord w = .error e ∧ r.cause = .unknownOpcode) ∨
       (∃ w i, s.fetchWord = some w ∧ decodeWord w = .ok i ∧ i.ownFault = some r.cause))) ∧
  (∀ (i : Instr) (s : State), i.ownFault = none → s.run ≠ .halted →
    ∃ t, exec i s = .next t ∧ t.fault = s.fault ∧ t.run ≠ .halted) ∧
  (∀ (op : Operation) (s t : State), op ≠ .step → perform op s = .next t →
    (op = .reset → t.run = .ready ∧ t.fault = none) ∧
    (op ≠ .reset → t.fault = s.fault ∧ (t.run = .halted → s.run = .halted))) ∧
  (∀ (bytes : List Byte) (s : State), 3584 < bytes.length → (s.loadProgram bytes).1 = .romTooLarge)

/-- A step that faults changes nothing but RUN and FAULT, and records the PC it began with (60_exceptions.md R193, by the spec's decision
D9; R192). -/
def Obligations.FaultsArePrecise : Prop :=
  ∀ s t : State, s.run = .ready → cpuStep s = .next t → t.run = .halted →
    Frame [.run, .fault] s t ∧ ∃ r, t.fault = some r ∧ r.pc = s.pc ∧ (r.word = none ↔ s.fetchWord = none) ∧
      (∀ w, r.word = some w → s.fetchWord = some w)

/-- The transitions of RUN, and no others (the table of 10_state.md R35; the latched index is the spec's decision D20). -/
def Obligations.RunChangesOnlyAsTheTableSays : Prop :=
  ∀ (op : Operation) (s t : State), perform op s = .next t → t.run ≠ s.run →
    (op = .reset ∧ t.run = .ready) ∨
    (∃ code x, op = .notifyKeyPress code ∧ s.run = .awaitKey x ∧ t.run = .ready) ∨
    (op = .step ∧ s.run = .ready ∧ t.run = .halted) ∨
    (∃ w x, op = .step ∧ s.run = .ready ∧ s.fetchWord = some w ∧ decodeWord w = .ok (.ldVxK x) ∧ t.run = .awaitKey x)

/-- Halted is absorbing but for reset: any operations that do not reset leave RUN, FAULT, PC, the registers, the stack and the display as
they are (60_exceptions.md R194, by the spec's decisions D11 and D28, log 14). -/
def Obligations.HaltedIsAbsorbing : Prop :=
  ∀ (ops : List Operation) (s : State), s.run = .halted → Operation.reset ∉ ops →
    ∃ t, performAll ops s = some t ∧ Frame [.dt, .st, .key, .mem] s t

/-- The frame of every instruction: what it may change is the list of `Instr.mayChange`, and every other part of the state is the same
after it, a fault included (20_memory.md R56, 10_state.md R31 to R37). -/
def Obligations.EveryInstructionKeepsItsFrame : Prop :=
  ∀ (i : Instr) (s t : State), exec i s = .next t → Frame (i.mayChange s.cfg) s t

/-- A general register changes only as an instruction's destination or, being VF, as the flag, and a flag is 0 or 1 (10_state.md R21,
R23; an instruction that faults writes no flag). -/
def Obligations.RegistersChangeOnlyAsDestinationOrFlag : Prop :=
  ∀ (i : Instr) (s t : State), exec i s = .next t →
    (∀ r, t.reg r ≠ s.reg r → r ∈ i.destination ∨ (r = Reg.vf ∧ i.writesFlag s.cfg = true)) ∧
    (i.writesFlag s.cfg = true → t.run ≠ .halted → t.reg Reg.vf = 0 ∨ t.reg Reg.vf = 1)

/-- The display changes only by `00E0`, `DXYN` and reset (10_state.md R34, 44_display.md R165). -/
def Obligations.DisplayChangesOnlyByClearDrawReset : Prop :=
  ∀ (op : Operation) (s t : State), perform op s = .next t → (∃ x y, t.pixelAt x y ≠ s.pixelAt x y) →
    op = .reset ∨ ∃ w i, op = .step ∧ s.run = .ready ∧ s.fetchWord = some w ∧ decodeWord w = .ok i ∧
      (i = .cls ∨ ∃ x y n, i = .drw x y n)

/-- The keypad's levels change only by `set_key` and reset: no instruction writes KEY (10_state.md R37). -/
def Obligations.KeysChangeOnlyBySetKeyAndReset : Prop :=
  ∀ (op : Operation) (s t : State), perform op s = .next t → (∃ k, t.isPressed k ≠ s.isPressed k) →
    op = .reset ∨ ∃ code pressed, op = .setKey code pressed

/-- Memory changes only by `FX33`, `FX55`, `load_program` and reset (20_memory.md R56). -/
def Obligations.MemoryChangesOnlyByStoresLoadReset : Prop :=
  ∀ (op : Operation) (s t : State), perform op s = .next t → (∃ a, t.load a ≠ s.load a) →
    op = .reset ∨ (∃ bytes, op = .loadProgram bytes) ∨
      ∃ w i x, op = .step ∧ s.run = .ready ∧ s.fetchWord = some w ∧ decodeWord w = .ok i ∧ (i = .ldB x ∨ i = .stRegs x)

/-! ## Invariants -/

/-- Every step keeps the configuration: CFG never changes while the machine runs (00_scope.md R7; that it stands in the state is the
model's choice, log 1). -/
def Obligations.StepKeepsTheConfiguration : Prop := ∀ s t : State, step s = .next t → t.cfg = s.cfg

/-- Every step keeps the memory's canonical form (the model's own invariant, log 21): the listed addresses exist, rise, and hold another
byte than the reset content. -/
def Obligations.StepKeepsCanonicalMemory : Prop :=
  ∀ s t : State, s.memCanonical → step s = .next t → t.memCanonical

/-- Every step keeps "FAULT is not none exactly when RUN is Halted" (10_state.md R36). -/
def Obligations.StepKeepsHaltedIffFault : Prop :=
  ∀ s t : State, s.haltedIffFault → step s = .next t → t.haltedIffFault

/-- Every step keeps PC within 0x10FE, within 4094 while an `FX0A` waits, and the return addresses in use within 4096: the reduction modulo
2^16 of PC sums is never exercised (10_state.md R29). -/
def Obligations.StepKeepsPcInRange : Prop :=
  ∀ s t : State, s.pcInRange → step s = .next t → t.pcInRange

/-- The state after reset meets the three invariants: canonical memory (log 21), RUN is Halted exactly when FAULT is not none, PC in
range. That RUN is Ready and FAULT none at reset, on which the second rests, is the spec's decision D22 (log 17). -/
def Obligations.ResetMeetsTheInvariants : Prop :=
  State.reset.memCanonical ∧ State.reset.haltedIffFault ∧ State.reset.pcInRange
end

