-- ==== Sys2Proof/Laws/State.lean ====
section
/-! SUPPORT. One lemma per field per update of the state, so that no proof unfolds a record update; what `reg` and `load` read
after an update; states with a shorter schedule. -/

namespace Sys2Proof.Machine

variable (s : State)

/-! ### `setReg` -/

@[simp] theorem State.setReg_v (r : Reg) (b : Byte) : (s.setReg r b).v = s.v.set r.val b := rfl
@[simp] theorem State.setReg_i (r : Reg) (b : Byte) : (s.setReg r b).i = s.i := rfl
@[simp] theorem State.setReg_pc (r : Reg) (b : Byte) : (s.setReg r b).pc = s.pc := rfl
@[simp] theorem State.setReg_stack (r : Reg) (b : Byte) : (s.setReg r b).stack = s.stack := rfl
@[simp] theorem State.setReg_sp (r : Reg) (b : Byte) : (s.setReg r b).sp = s.sp := rfl
@[simp] theorem State.setReg_dt (r : Reg) (b : Byte) : (s.setReg r b).dt = s.dt := rfl
@[simp] theorem State.setReg_st (r : Reg) (b : Byte) : (s.setReg r b).st = s.st := rfl
@[simp] theorem State.setReg_fb (r : Reg) (b : Byte) : (s.setReg r b).fb = s.fb := rfl
@[simp] theorem State.setReg_key (r : Reg) (b : Byte) : (s.setReg r b).key = s.key := rfl
@[simp] theorem State.setReg_mem (r : Reg) (b : Byte) : (s.setReg r b).mem = s.mem := rfl
@[simp] theorem State.setReg_run (r : Reg) (b : Byte) : (s.setReg r b).run = s.run := rfl
@[simp] theorem State.setReg_fault (r : Reg) (b : Byte) : (s.setReg r b).fault = s.fault := rfl
@[simp] theorem State.setReg_cfg (r : Reg) (b : Byte) : (s.setReg r b).cfg = s.cfg := rfl
@[simp] theorem State.setReg_draws (r : Reg) (b : Byte) : (s.setReg r b).draws = s.draws := rfl
@[simp] theorem State.setReg_schedule (r : Reg) (b : Byte) : (s.setReg r b).schedule = s.schedule := rfl
@[simp] theorem State.setReg_load (r : Reg) (b : Byte) (a : Nat) : (s.setReg r b).load a = s.load a := rfl
@[simp] theorem State.setReg_pixelAt (r : Reg) (b : Byte) (x : Fin 64) (y : Fin 32) : (s.setReg r b).pixelAt x y = s.pixelAt x y := rfl
@[simp] theorem State.setReg_isPressed (r : Reg) (b : Byte) (q : KeyCode) : (s.setReg r b).isPressed q = s.isPressed q := rfl

/-! ### `setRegFlag` -/

@[simp] theorem State.setRegFlag_v (r : Reg) (b f : Byte) : (s.setRegFlag r b f).v = (s.v.set r.val b).set Reg.vf.val f := rfl
@[simp] theorem State.setRegFlag_i (r : Reg) (b f : Byte) : (s.setRegFlag r b f).i = s.i := rfl
@[simp] theorem State.setRegFlag_pc (r : Reg) (b f : Byte) : (s.setRegFlag r b f).pc = s.pc := rfl
@[simp] theorem State.setRegFlag_stack (r : Reg) (b f : Byte) : (s.setRegFlag r b f).stack = s.stack := rfl
@[simp] theorem State.setRegFlag_sp (r : Reg) (b f : Byte) : (s.setRegFlag r b f).sp = s.sp := rfl
@[simp] theorem State.setRegFlag_dt (r : Reg) (b f : Byte) : (s.setRegFlag r b f).dt = s.dt := rfl
@[simp] theorem State.setRegFlag_st (r : Reg) (b f : Byte) : (s.setRegFlag r b f).st = s.st := rfl
@[simp] theorem State.setRegFlag_fb (r : Reg) (b f : Byte) : (s.setRegFlag r b f).fb = s.fb := rfl
@[simp] theorem State.setRegFlag_key (r : Reg) (b f : Byte) : (s.setRegFlag r b f).key = s.key := rfl
@[simp] theorem State.setRegFlag_mem (r : Reg) (b f : Byte) : (s.setRegFlag r b f).mem = s.mem := rfl
@[simp] theorem State.setRegFlag_run (r : Reg) (b f : Byte) : (s.setRegFlag r b f).run = s.run := rfl
@[simp] theorem State.setRegFlag_fault (r : Reg) (b f : Byte) : (s.setRegFlag r b f).fault = s.fault := rfl
@[simp] theorem State.setRegFlag_cfg (r : Reg) (b f : Byte) : (s.setRegFlag r b f).cfg = s.cfg := rfl
@[simp] theorem State.setRegFlag_draws (r : Reg) (b f : Byte) : (s.setRegFlag r b f).draws = s.draws := rfl
@[simp] theorem State.setRegFlag_schedule (r : Reg) (b f : Byte) : (s.setRegFlag r b f).schedule = s.schedule := rfl
@[simp] theorem State.setRegFlag_load (r : Reg) (b f : Byte) (a : Nat) : (s.setRegFlag r b f).load a = s.load a := rfl
@[simp] theorem State.setRegFlag_pixelAt (r : Reg) (b f : Byte) (x : Fin 64) (y : Fin 32) : (s.setRegFlag r b f).pixelAt x y = s.pixelAt x y := rfl
@[simp] theorem State.setRegFlag_isPressed (r : Reg) (b f : Byte) (q : KeyCode) : (s.setRegFlag r b f).isPressed q = s.isPressed q := rfl

/-! ### `setLowRegs` -/

@[simp] theorem State.setLowRegs_v (bs : List Byte) : (s.setLowRegs bs).v = Vector.ofFn fun k : Fin 16 => bs.getD k.val (s.reg k) := rfl
@[simp] theorem State.setLowRegs_i (bs : List Byte) : (s.setLowRegs bs).i = s.i := rfl
@[simp] theorem State.setLowRegs_pc (bs : List Byte) : (s.setLowRegs bs).pc = s.pc := rfl
@[simp] theorem State.setLowRegs_stack (bs : List Byte) : (s.setLowRegs bs).stack = s.stack := rfl
@[simp] theorem State.setLowRegs_sp (bs : List Byte) : (s.setLowRegs bs).sp = s.sp := rfl
@[simp] theorem State.setLowRegs_dt (bs : List Byte) : (s.setLowRegs bs).dt = s.dt := rfl
@[simp] theorem State.setLowRegs_st (bs : List Byte) : (s.setLowRegs bs).st = s.st := rfl
@[simp] theorem State.setLowRegs_fb (bs : List Byte) : (s.setLowRegs bs).fb = s.fb := rfl
@[simp] theorem State.setLowRegs_key (bs : List Byte) : (s.setLowRegs bs).key = s.key := rfl
@[simp] theorem State.setLowRegs_mem (bs : List Byte) : (s.setLowRegs bs).mem = s.mem := rfl
@[simp] theorem State.setLowRegs_run (bs : List Byte) : (s.setLowRegs bs).run = s.run := rfl
@[simp] theorem State.setLowRegs_fault (bs : List Byte) : (s.setLowRegs bs).fault = s.fault := rfl
@[simp] theorem State.setLowRegs_cfg (bs : List Byte) : (s.setLowRegs bs).cfg = s.cfg := rfl
@[simp] theorem State.setLowRegs_draws (bs : List Byte) : (s.setLowRegs bs).draws = s.draws := rfl
@[simp] theorem State.setLowRegs_schedule (bs : List Byte) : (s.setLowRegs bs).schedule = s.schedule := rfl
@[simp] theorem State.setLowRegs_load (bs : List Byte) (a : Nat) : (s.setLowRegs bs).load a = s.load a := rfl
@[simp] theorem State.setLowRegs_pixelAt (bs : List Byte) (x : Fin 64) (y : Fin 32) : (s.setLowRegs bs).pixelAt x y = s.pixelAt x y := rfl
@[simp] theorem State.setLowRegs_isPressed (bs : List Byte) (q : KeyCode) : (s.setLowRegs bs).isPressed q = s.isPressed q := rfl

/-! ### `setI` -/

@[simp] theorem State.setI_v (w : Word) : (s.setI w).v = s.v := rfl
@[simp] theorem State.setI_i (w : Word) : (s.setI w).i = w := rfl
@[simp] theorem State.setI_pc (w : Word) : (s.setI w).pc = s.pc := rfl
@[simp] theorem State.setI_stack (w : Word) : (s.setI w).stack = s.stack := rfl
@[simp] theorem State.setI_sp (w : Word) : (s.setI w).sp = s.sp := rfl
@[simp] theorem State.setI_dt (w : Word) : (s.setI w).dt = s.dt := rfl
@[simp] theorem State.setI_st (w : Word) : (s.setI w).st = s.st := rfl
@[simp] theorem State.setI_fb (w : Word) : (s.setI w).fb = s.fb := rfl
@[simp] theorem State.setI_key (w : Word) : (s.setI w).key = s.key := rfl
@[simp] theorem State.setI_mem (w : Word) : (s.setI w).mem = s.mem := rfl
@[simp] theorem State.setI_run (w : Word) : (s.setI w).run = s.run := rfl
@[simp] theorem State.setI_fault (w : Word) : (s.setI w).fault = s.fault := rfl
@[simp] theorem State.setI_cfg (w : Word) : (s.setI w).cfg = s.cfg := rfl
@[simp] theorem State.setI_draws (w : Word) : (s.setI w).draws = s.draws := rfl
@[simp] theorem State.setI_schedule (w : Word) : (s.setI w).schedule = s.schedule := rfl
@[simp] theorem State.setI_reg (w : Word) (q : Reg) : (s.setI w).reg q = s.reg q := rfl
@[simp] theorem State.setI_load (w : Word) (a : Nat) : (s.setI w).load a = s.load a := rfl
@[simp] theorem State.setI_pixelAt (w : Word) (x : Fin 64) (y : Fin 32) : (s.setI w).pixelAt x y = s.pixelAt x y := rfl
@[simp] theorem State.setI_isPressed (w : Word) (q : KeyCode) : (s.setI w).isPressed q = s.isPressed q := rfl

/-! ### `setPc` -/

@[simp] theorem State.setPc_v (w : Word) : (s.setPc w).v = s.v := rfl
@[simp] theorem State.setPc_i (w : Word) : (s.setPc w).i = s.i := rfl
@[simp] theorem State.setPc_pc (w : Word) : (s.setPc w).pc = w := rfl
@[simp] theorem State.setPc_stack (w : Word) : (s.setPc w).stack = s.stack := rfl
@[simp] theorem State.setPc_sp (w : Word) : (s.setPc w).sp = s.sp := rfl
@[simp] theorem State.setPc_dt (w : Word) : (s.setPc w).dt = s.dt := rfl
@[simp] theorem State.setPc_st (w : Word) : (s.setPc w).st = s.st := rfl
@[simp] theorem State.setPc_fb (w : Word) : (s.setPc w).fb = s.fb := rfl
@[simp] theorem State.setPc_key (w : Word) : (s.setPc w).key = s.key := rfl
@[simp] theorem State.setPc_mem (w : Word) : (s.setPc w).mem = s.mem := rfl
@[simp] theorem State.setPc_run (w : Word) : (s.setPc w).run = s.run := rfl
@[simp] theorem State.setPc_fault (w : Word) : (s.setPc w).fault = s.fault := rfl
@[simp] theorem State.setPc_cfg (w : Word) : (s.setPc w).cfg = s.cfg := rfl
@[simp] theorem State.setPc_draws (w : Word) : (s.setPc w).draws = s.draws := rfl
@[simp] theorem State.setPc_schedule (w : Word) : (s.setPc w).schedule = s.schedule := rfl
@[simp] theorem State.setPc_reg (w : Word) (q : Reg) : (s.setPc w).reg q = s.reg q := rfl
@[simp] theorem State.setPc_load (w : Word) (a : Nat) : (s.setPc w).load a = s.load a := rfl
@[simp] theorem State.setPc_pixelAt (w : Word) (x : Fin 64) (y : Fin 32) : (s.setPc w).pixelAt x y = s.pixelAt x y := rfl
@[simp] theorem State.setPc_isPressed (w : Word) (q : KeyCode) : (s.setPc w).isPressed q = s.isPressed q := rfl

/-! ### `advance` -/

@[simp] theorem State.advance_v : s.advance.v = s.v := rfl
@[simp] theorem State.advance_i : s.advance.i = s.i := rfl
@[simp] theorem State.advance_pc : s.advance.pc = s.pc + 2 := rfl
@[simp] theorem State.advance_stack : s.advance.stack = s.stack := rfl
@[simp] theorem State.advance_sp : s.advance.sp = s.sp := rfl
@[simp] theorem State.advance_dt : s.advance.dt = s.dt := rfl
@[simp] theorem State.advance_st : s.advance.st = s.st := rfl
@[simp] theorem State.advance_fb : s.advance.fb = s.fb := rfl
@[simp] theorem State.advance_key : s.advance.key = s.key := rfl
@[simp] theorem State.advance_mem : s.advance.mem = s.mem := rfl
@[simp] theorem State.advance_run : s.advance.run = s.run := rfl
@[simp] theorem State.advance_fault : s.advance.fault = s.fault := rfl
@[simp] theorem State.advance_cfg : s.advance.cfg = s.cfg := rfl
@[simp] theorem State.advance_draws : s.advance.draws = s.draws := rfl
@[simp] theorem State.advance_schedule : s.advance.schedule = s.schedule := rfl
@[simp] theorem State.advance_reg (q : Reg) : s.advance.reg q = s.reg q := rfl
@[simp] theorem State.advance_load (a : Nat) : s.advance.load a = s.load a := rfl
@[simp] theorem State.advance_pixelAt (x : Fin 64) (y : Fin 32) : s.advance.pixelAt x y = s.pixelAt x y := rfl
@[simp] theorem State.advance_isPressed (q : KeyCode) : s.advance.isPressed q = s.isPressed q := rfl

/-! ### `skipIf` -/

@[simp] theorem State.skipIf_v (c : Bool) : (s.skipIf c).v = s.v := rfl
@[simp] theorem State.skipIf_i (c : Bool) : (s.skipIf c).i = s.i := rfl
@[simp] theorem State.skipIf_pc (c : Bool) : (s.skipIf c).pc = if c then s.pc + 4 else s.pc + 2 := rfl
@[simp] theorem State.skipIf_stack (c : Bool) : (s.skipIf c).stack = s.stack := rfl
@[simp] theorem State.skipIf_sp (c : Bool) : (s.skipIf c).sp = s.sp := rfl
@[simp] theorem State.skipIf_dt (c : Bool) : (s.skipIf c).dt = s.dt := rfl
@[simp] theorem State.skipIf_st (c : Bool) : (s.skipIf c).st = s.st := rfl
@[simp] theorem State.skipIf_fb (c : Bool) : (s.skipIf c).fb = s.fb := rfl
@[simp] theorem State.skipIf_key (c : Bool) : (s.skipIf c).key = s.key := rfl
@[simp] theorem State.skipIf_mem (c : Bool) : (s.skipIf c).mem = s.mem := rfl
@[simp] theorem State.skipIf_run (c : Bool) : (s.skipIf c).run = s.run := rfl
@[simp] theorem State.skipIf_fault (c : Bool) : (s.skipIf c).fault = s.fault := rfl
@[simp] theorem State.skipIf_cfg (c : Bool) : (s.skipIf c).cfg = s.cfg := rfl
@[simp] theorem State.skipIf_draws (c : Bool) : (s.skipIf c).draws = s.draws := rfl
@[simp] theorem State.skipIf_schedule (c : Bool) : (s.skipIf c).schedule = s.schedule := rfl
@[simp] theorem State.skipIf_reg (c : Bool) (q : Reg) : (s.skipIf c).reg q = s.reg q := rfl
@[simp] theorem State.skipIf_load (c : Bool) (a : Nat) : (s.skipIf c).load a = s.load a := rfl
@[simp] theorem State.skipIf_pixelAt (c : Bool) (x : Fin 64) (y : Fin 32) : (s.skipIf c).pixelAt x y = s.pixelAt x y := rfl
@[simp] theorem State.skipIf_isPressed (c : Bool) (q : KeyCode) : (s.skipIf c).isPressed q = s.isPressed q := rfl

/-! ### `setDt` -/

@[simp] theorem State.setDt_v (b : Byte) : (s.setDt b).v = s.v := rfl
@[simp] theorem State.setDt_i (b : Byte) : (s.setDt b).i = s.i := rfl
@[simp] theorem State.setDt_pc (b : Byte) : (s.setDt b).pc = s.pc := rfl
@[simp] theorem State.setDt_stack (b : Byte) : (s.setDt b).stack = s.stack := rfl
@[simp] theorem State.setDt_sp (b : Byte) : (s.setDt b).sp = s.sp := rfl
@[simp] theorem State.setDt_dt (b : Byte) : (s.setDt b).dt = b := rfl
@[simp] theorem State.setDt_st (b : Byte) : (s.setDt b).st = s.st := rfl
@[simp] theorem State.setDt_fb (b : Byte) : (s.setDt b).fb = s.fb := rfl
@[simp] theorem State.setDt_key (b : Byte) : (s.setDt b).key = s.key := rfl
@[simp] theorem State.setDt_mem (b : Byte) : (s.setDt b).mem = s.mem := rfl
@[simp] theorem State.setDt_run (b : Byte) : (s.setDt b).run = s.run := rfl
@[simp] theorem State.setDt_fault (b : Byte) : (s.setDt b).fault = s.fault := rfl
@[simp] theorem State.setDt_cfg (b : Byte) : (s.setDt b).cfg = s.cfg := rfl
@[simp] theorem State.setDt_draws (b : Byte) : (s.setDt b).draws = s.draws := rfl
@[simp] theorem State.setDt_schedule (b : Byte) : (s.setDt b).schedule = s.schedule := rfl
@[simp] theorem State.setDt_reg (b : Byte) (q : Reg) : (s.setDt b).reg q = s.reg q := rfl
@[simp] theorem State.setDt_load (b : Byte) (a : Nat) : (s.setDt b).load a = s.load a := rfl
@[simp] theorem State.setDt_pixelAt (b : Byte) (x : Fin 64) (y : Fin 32) : (s.setDt b).pixelAt x y = s.pixelAt x y := rfl
@[simp] theorem State.setDt_isPressed (b : Byte) (q : KeyCode) : (s.setDt b).isPressed q = s.isPressed q := rfl

/-! ### `setSt` -/

@[simp] theorem State.setSt_v (b : Byte) : (s.setSt b).v = s.v := rfl
@[simp] theorem State.setSt_i (b : Byte) : (s.setSt b).i = s.i := rfl
@[simp] theorem State.setSt_pc (b : Byte) : (s.setSt b).pc = s.pc := rfl
@[simp] theorem State.setSt_stack (b : Byte) : (s.setSt b).stack = s.stack := rfl
@[simp] theorem State.setSt_sp (b : Byte) : (s.setSt b).sp = s.sp := rfl
@[simp] theorem State.setSt_dt (b : Byte) : (s.setSt b).dt = s.dt := rfl
@[simp] theorem State.setSt_st (b : Byte) : (s.setSt b).st = b := rfl
@[simp] theorem State.setSt_fb (b : Byte) : (s.setSt b).fb = s.fb := rfl
@[simp] theorem State.setSt_key (b : Byte) : (s.setSt b).key = s.key := rfl
@[simp] theorem State.setSt_mem (b : Byte) : (s.setSt b).mem = s.mem := rfl
@[simp] theorem State.setSt_run (b : Byte) : (s.setSt b).run = s.run := rfl
@[simp] theorem State.setSt_fault (b : Byte) : (s.setSt b).fault = s.fault := rfl
@[simp] theorem State.setSt_cfg (b : Byte) : (s.setSt b).cfg = s.cfg := rfl
@[simp] theorem State.setSt_draws (b : Byte) : (s.setSt b).draws = s.draws := rfl
@[simp] theorem State.setSt_schedule (b : Byte) : (s.setSt b).schedule = s.schedule := rfl
@[simp] theorem State.setSt_reg (b : Byte) (q : Reg) : (s.setSt b).reg q = s.reg q := rfl
@[simp] theorem State.setSt_load (b : Byte) (a : Nat) : (s.setSt b).load a = s.load a := rfl
@[simp] theorem State.setSt_pixelAt (b : Byte) (x : Fin 64) (y : Fin 32) : (s.setSt b).pixelAt x y = s.pixelAt x y := rfl
@[simp] theorem State.setSt_isPressed (b : Byte) (q : KeyCode) : (s.setSt b).isPressed q = s.isPressed q := rfl

/-! ### `setFb` -/

@[simp] theorem State.setFb_v (f : FrameBuffer) : (s.setFb f).v = s.v := rfl
@[simp] theorem State.setFb_i (f : FrameBuffer) : (s.setFb f).i = s.i := rfl
@[simp] theorem State.setFb_pc (f : FrameBuffer) : (s.setFb f).pc = s.pc := rfl
@[simp] theorem State.setFb_stack (f : FrameBuffer) : (s.setFb f).stack = s.stack := rfl
@[simp] theorem State.setFb_sp (f : FrameBuffer) : (s.setFb f).sp = s.sp := rfl
@[simp] theorem State.setFb_dt (f : FrameBuffer) : (s.setFb f).dt = s.dt := rfl
@[simp] theorem State.setFb_st (f : FrameBuffer) : (s.setFb f).st = s.st := rfl
@[simp] theorem State.setFb_fb (f : FrameBuffer) : (s.setFb f).fb = f := rfl
@[simp] theorem State.setFb_key (f : FrameBuffer) : (s.setFb f).key = s.key := rfl
@[simp] theorem State.setFb_mem (f : FrameBuffer) : (s.setFb f).mem = s.mem := rfl
@[simp] theorem State.setFb_run (f : FrameBuffer) : (s.setFb f).run = s.run := rfl
@[simp] theorem State.setFb_fault (f : FrameBuffer) : (s.setFb f).fault = s.fault := rfl
@[simp] theorem State.setFb_cfg (f : FrameBuffer) : (s.setFb f).cfg = s.cfg := rfl
@[simp] theorem State.setFb_draws (f : FrameBuffer) : (s.setFb f).draws = s.draws := rfl
@[simp] theorem State.setFb_schedule (f : FrameBuffer) : (s.setFb f).schedule = s.schedule := rfl
@[simp] theorem State.setFb_reg (f : FrameBuffer) (q : Reg) : (s.setFb f).reg q = s.reg q := rfl
@[simp] theorem State.setFb_load (f : FrameBuffer) (a : Nat) : (s.setFb f).load a = s.load a := rfl
@[simp] theorem State.setFb_isPressed (f : FrameBuffer) (q : KeyCode) : (s.setFb f).isPressed q = s.isPressed q := rfl

/-! ### `setRun` -/

@[simp] theorem State.setRun_v (r : RunState) : (s.setRun r).v = s.v := rfl
@[simp] theorem State.setRun_i (r : RunState) : (s.setRun r).i = s.i := rfl
@[simp] theorem State.setRun_pc (r : RunState) : (s.setRun r).pc = s.pc := rfl
@[simp] theorem State.setRun_stack (r : RunState) : (s.setRun r).stack = s.stack := rfl
@[simp] theorem State.setRun_sp (r : RunState) : (s.setRun r).sp = s.sp := rfl
@[simp] theorem State.setRun_dt (r : RunState) : (s.setRun r).dt = s.dt := rfl
@[simp] theorem State.setRun_st (r : RunState) : (s.setRun r).st = s.st := rfl
@[simp] theorem State.setRun_fb (r : RunState) : (s.setRun r).fb = s.fb := rfl
@[simp] theorem State.setRun_key (r : RunState) : (s.setRun r).key = s.key := rfl
@[simp] theorem State.setRun_mem (r : RunState) : (s.setRun r).mem = s.mem := rfl
@[simp] theorem State.setRun_run (r : RunState) : (s.setRun r).run = r := rfl
@[simp] theorem State.setRun_fault (r : RunState) : (s.setRun r).fault = s.fault := rfl
@[simp] theorem State.setRun_cfg (r : RunState) : (s.setRun r).cfg = s.cfg := rfl
@[simp] theorem State.setRun_draws (r : RunState) : (s.setRun r).draws = s.draws := rfl
@[simp] theorem State.setRun_schedule (r : RunState) : (s.setRun r).schedule = s.schedule := rfl
@[simp] theorem State.setRun_reg (r : RunState) (q : Reg) : (s.setRun r).reg q = s.reg q := rfl
@[simp] theorem State.setRun_load (r : RunState) (a : Nat) : (s.setRun r).load a = s.load a := rfl
@[simp] theorem State.setRun_pixelAt (r : RunState) (x : Fin 64) (y : Fin 32) : (s.setRun r).pixelAt x y = s.pixelAt x y := rfl
@[simp] theorem State.setRun_isPressed (r : RunState) (q : KeyCode) : (s.setRun r).isPressed q = s.isPressed q := rfl

/-! ### `setSchedule` -/

@[simp] theorem State.setSchedule_v (ops : List Operation) : (s.setSchedule ops).v = s.v := rfl
@[simp] theorem State.setSchedule_i (ops : List Operation) : (s.setSchedule ops).i = s.i := rfl
@[simp] theorem State.setSchedule_pc (ops : List Operation) : (s.setSchedule ops).pc = s.pc := rfl
@[simp] theorem State.setSchedule_stack (ops : List Operation) : (s.setSchedule ops).stack = s.stack := rfl
@[simp] theorem State.setSchedule_sp (ops : List Operation) : (s.setSchedule ops).sp = s.sp := rfl
@[simp] theorem State.setSchedule_dt (ops : List Operation) : (s.setSchedule ops).dt = s.dt := rfl
@[simp] theorem State.setSchedule_st (ops : List Operation) : (s.setSchedule ops).st = s.st := rfl
@[simp] theorem State.setSchedule_fb (ops : List Operation) : (s.setSchedule ops).fb = s.fb := rfl
@[simp] theorem State.setSchedule_key (ops : List Operation) : (s.setSchedule ops).key = s.key := rfl
@[simp] theorem State.setSchedule_mem (ops : List Operation) : (s.setSchedule ops).mem = s.mem := rfl
@[simp] theorem State.setSchedule_run (ops : List Operation) : (s.setSchedule ops).run = s.run := rfl
@[simp] theorem State.setSchedule_fault (ops : List Operation) : (s.setSchedule ops).fault = s.fault := rfl
@[simp] theorem State.setSchedule_cfg (ops : List Operation) : (s.setSchedule ops).cfg = s.cfg := rfl
@[simp] theorem State.setSchedule_draws (ops : List Operation) : (s.setSchedule ops).draws = s.draws := rfl
@[simp] theorem State.setSchedule_schedule (ops : List Operation) : (s.setSchedule ops).schedule = ops := rfl
@[simp] theorem State.setSchedule_reg (ops : List Operation) (q : Reg) : (s.setSchedule ops).reg q = s.reg q := rfl
@[simp] theorem State.setSchedule_load (ops : List Operation) (a : Nat) : (s.setSchedule ops).load a = s.load a := rfl
@[simp] theorem State.setSchedule_pixelAt (ops : List Operation) (x : Fin 64) (y : Fin 32) : (s.setSchedule ops).pixelAt x y = s.pixelAt x y := rfl
@[simp] theorem State.setSchedule_isPressed (ops : List Operation) (q : KeyCode) : (s.setSchedule ops).isPressed q = s.isPressed q := rfl

/-! ### `setKey` -/

@[simp] theorem State.setKey_v (k : KeyCode) (p : Bool) : (s.setKey k p).v = s.v := rfl
@[simp] theorem State.setKey_i (k : KeyCode) (p : Bool) : (s.setKey k p).i = s.i := rfl
@[simp] theorem State.setKey_pc (k : KeyCode) (p : Bool) : (s.setKey k p).pc = s.pc := rfl
@[simp] theorem State.setKey_stack (k : KeyCode) (p : Bool) : (s.setKey k p).stack = s.stack := rfl
@[simp] theorem State.setKey_sp (k : KeyCode) (p : Bool) : (s.setKey k p).sp = s.sp := rfl
@[simp] theorem State.setKey_dt (k : KeyCode) (p : Bool) : (s.setKey k p).dt = s.dt := rfl
@[simp] theorem State.setKey_st (k : KeyCode) (p : Bool) : (s.setKey k p).st = s.st := rfl
@[simp] theorem State.setKey_fb (k : KeyCode) (p : Bool) : (s.setKey k p).fb = s.fb := rfl
@[simp] theorem State.setKey_key (k : KeyCode) (p : Bool) : (s.setKey k p).key = s.key.set k.val p := rfl
@[simp] theorem State.setKey_mem (k : KeyCode) (p : Bool) : (s.setKey k p).mem = s.mem := rfl
@[simp] theorem State.setKey_run (k : KeyCode) (p : Bool) : (s.setKey k p).run = s.run := rfl
@[simp] theorem State.setKey_fault (k : KeyCode) (p : Bool) : (s.setKey k p).fault = s.fault := rfl
@[simp] theorem State.setKey_cfg (k : KeyCode) (p : Bool) : (s.setKey k p).cfg = s.cfg := rfl
@[simp] theorem State.setKey_draws (k : KeyCode) (p : Bool) : (s.setKey k p).draws = s.draws := rfl
@[simp] theorem State.setKey_schedule (k : KeyCode) (p : Bool) : (s.setKey k p).schedule = s.schedule := rfl
@[simp] theorem State.setKey_reg (k : KeyCode) (p : Bool) (q : Reg) : (s.setKey k p).reg q = s.reg q := rfl
@[simp] theorem State.setKey_load (k : KeyCode) (p : Bool) (a : Nat) : (s.setKey k p).load a = s.load a := rfl
@[simp] theorem State.setKey_pixelAt (k : KeyCode) (p : Bool) (x : Fin 64) (y : Fin 32) : (s.setKey k p).pixelAt x y = s.pixelAt x y := rfl

/-! ### `storeBytes` -/

@[simp] theorem State.storeBytes_v (a : Nat) (bs : List Byte) : (s.storeBytes a bs).v = s.v := rfl
@[simp] theorem State.storeBytes_i (a : Nat) (bs : List Byte) : (s.storeBytes a bs).i = s.i := rfl
@[simp] theorem State.storeBytes_pc (a : Nat) (bs : List Byte) : (s.storeBytes a bs).pc = s.pc := rfl
@[simp] theorem State.storeBytes_stack (a : Nat) (bs : List Byte) : (s.storeBytes a bs).stack = s.stack := rfl
@[simp] theorem State.storeBytes_sp (a : Nat) (bs : List Byte) : (s.storeBytes a bs).sp = s.sp := rfl
@[simp] theorem State.storeBytes_dt (a : Nat) (bs : List Byte) : (s.storeBytes a bs).dt = s.dt := rfl
@[simp] theorem State.storeBytes_st (a : Nat) (bs : List Byte) : (s.storeBytes a bs).st = s.st := rfl
@[simp] theorem State.storeBytes_fb (a : Nat) (bs : List Byte) : (s.storeBytes a bs).fb = s.fb := rfl
@[simp] theorem State.storeBytes_key (a : Nat) (bs : List Byte) : (s.storeBytes a bs).key = s.key := rfl
@[simp] theorem State.storeBytes_mem (a : Nat) (bs : List Byte) : (s.storeBytes a bs).mem = Memory.setBytes s.cfg s.mem a bs := rfl
@[simp] theorem State.storeBytes_run (a : Nat) (bs : List Byte) : (s.storeBytes a bs).run = s.run := rfl
@[simp] theorem State.storeBytes_fault (a : Nat) (bs : List Byte) : (s.storeBytes a bs).fault = s.fault := rfl
@[simp] theorem State.storeBytes_cfg (a : Nat) (bs : List Byte) : (s.storeBytes a bs).cfg = s.cfg := rfl
@[simp] theorem State.storeBytes_draws (a : Nat) (bs : List Byte) : (s.storeBytes a bs).draws = s.draws := rfl
@[simp] theorem State.storeBytes_schedule (a : Nat) (bs : List Byte) : (s.storeBytes a bs).schedule = s.schedule := rfl
@[simp] theorem State.storeBytes_reg (a : Nat) (bs : List Byte) (q : Reg) : (s.storeBytes a bs).reg q = s.reg q := rfl
@[simp] theorem State.storeBytes_pixelAt (a : Nat) (bs : List Byte) (x : Fin 64) (y : Fin 32) : (s.storeBytes a bs).pixelAt x y = s.pixelAt x y := rfl
@[simp] theorem State.storeBytes_isPressed (a : Nat) (bs : List Byte) (q : KeyCode) : (s.storeBytes a bs).isPressed q = s.isPressed q := rfl

/-! ### `raise` -/

@[simp] theorem State.raise_v (c : Fault) (w : Option Word) : (s.raise c w).v = s.v := rfl
@[simp] theorem State.raise_i (c : Fault) (w : Option Word) : (s.raise c w).i = s.i := rfl
@[simp] theorem State.raise_pc (c : Fault) (w : Option Word) : (s.raise c w).pc = s.pc := rfl
@[simp] theorem State.raise_stack (c : Fault) (w : Option Word) : (s.raise c w).stack = s.stack := rfl
@[simp] theorem State.raise_sp (c : Fault) (w : Option Word) : (s.raise c w).sp = s.sp := rfl
@[simp] theorem State.raise_dt (c : Fault) (w : Option Word) : (s.raise c w).dt = s.dt := rfl
@[simp] theorem State.raise_st (c : Fault) (w : Option Word) : (s.raise c w).st = s.st := rfl
@[simp] theorem State.raise_fb (c : Fault) (w : Option Word) : (s.raise c w).fb = s.fb := rfl
@[simp] theorem State.raise_key (c : Fault) (w : Option Word) : (s.raise c w).key = s.key := rfl
@[simp] theorem State.raise_mem (c : Fault) (w : Option Word) : (s.raise c w).mem = s.mem := rfl
@[simp] theorem State.raise_run (c : Fault) (w : Option Word) : (s.raise c w).run = .halted := rfl
@[simp] theorem State.raise_fault (c : Fault) (w : Option Word) : (s.raise c w).fault = some ⟨c, s.pc, w⟩ := rfl
@[simp] theorem State.raise_cfg (c : Fault) (w : Option Word) : (s.raise c w).cfg = s.cfg := rfl
@[simp] theorem State.raise_draws (c : Fault) (w : Option Word) : (s.raise c w).draws = s.draws := rfl
@[simp] theorem State.raise_schedule (c : Fault) (w : Option Word) : (s.raise c w).schedule = s.schedule := rfl
@[simp] theorem State.raise_reg (c : Fault) (w : Option Word) (q : Reg) : (s.raise c w).reg q = s.reg q := rfl
@[simp] theorem State.raise_load (c : Fault) (w : Option Word) (a : Nat) : (s.raise c w).load a = s.load a := rfl
@[simp] theorem State.raise_pixelAt (c : Fault) (w : Option Word) (x : Fin 64) (y : Fin 32) : (s.raise c w).pixelAt x y = s.pixelAt x y := rfl
@[simp] theorem State.raise_isPressed (c : Fault) (w : Option Word) (q : KeyCode) : (s.raise c w).isPressed q = s.isPressed q := rfl

/-! ### `spendDraw` -/

@[simp] theorem State.spendDraw_v : s.spendDraw.v = s.v := rfl
@[simp] theorem State.spendDraw_i : s.spendDraw.i = s.i := rfl
@[simp] theorem State.spendDraw_pc : s.spendDraw.pc = s.pc := rfl
@[simp] theorem State.spendDraw_stack : s.spendDraw.stack = s.stack := rfl
@[simp] theorem State.spendDraw_sp : s.spendDraw.sp = s.sp := rfl
@[simp] theorem State.spendDraw_dt : s.spendDraw.dt = s.dt := rfl
@[simp] theorem State.spendDraw_st : s.spendDraw.st = s.st := rfl
@[simp] theorem State.spendDraw_fb : s.spendDraw.fb = s.fb := rfl
@[simp] theorem State.spendDraw_key : s.spendDraw.key = s.key := rfl
@[simp] theorem State.spendDraw_mem : s.spendDraw.mem = s.mem := rfl
@[simp] theorem State.spendDraw_run : s.spendDraw.run = s.run := rfl
@[simp] theorem State.spendDraw_fault : s.spendDraw.fault = s.fault := rfl
@[simp] theorem State.spendDraw_cfg : s.spendDraw.cfg = s.cfg := rfl
@[simp] theorem State.spendDraw_draws : s.spendDraw.draws = s.draws + 1 := rfl
@[simp] theorem State.spendDraw_schedule : s.spendDraw.schedule = s.schedule := rfl
@[simp] theorem State.spendDraw_reg (q : Reg) : s.spendDraw.reg q = s.reg q := rfl
@[simp] theorem State.spendDraw_load (a : Nat) : s.spendDraw.load a = s.load a := rfl
@[simp] theorem State.spendDraw_pixelAt (x : Fin 64) (y : Fin 32) : s.spendDraw.pixelAt x y = s.pixelAt x y := rfl
@[simp] theorem State.spendDraw_isPressed (q : KeyCode) : s.spendDraw.isPressed q = s.isPressed q := rfl

/-! ### `tick` -/

@[simp] theorem State.tick_v : s.tick.v = s.v := rfl
@[simp] theorem State.tick_i : s.tick.i = s.i := rfl
@[simp] theorem State.tick_pc : s.tick.pc = s.pc := rfl
@[simp] theorem State.tick_stack : s.tick.stack = s.stack := rfl
@[simp] theorem State.tick_sp : s.tick.sp = s.sp := rfl
@[simp] theorem State.tick_dt : s.tick.dt = countDown s.dt := rfl
@[simp] theorem State.tick_st : s.tick.st = countDown s.st := rfl
@[simp] theorem State.tick_fb : s.tick.fb = s.fb := rfl
@[simp] theorem State.tick_key : s.tick.key = s.key := rfl
@[simp] theorem State.tick_mem : s.tick.mem = s.mem := rfl
@[simp] theorem State.tick_run : s.tick.run = s.run := rfl
@[simp] theorem State.tick_fault : s.tick.fault = s.fault := rfl
@[simp] theorem State.tick_cfg : s.tick.cfg = s.cfg := rfl
@[simp] theorem State.tick_draws : s.tick.draws = s.draws := rfl
@[simp] theorem State.tick_schedule : s.tick.schedule = s.schedule := rfl
@[simp] theorem State.tick_reg (q : Reg) : s.tick.reg q = s.reg q := rfl
@[simp] theorem State.tick_load (a : Nat) : s.tick.load a = s.load a := rfl
@[simp] theorem State.tick_pixelAt (x : Fin 64) (y : Fin 32) : s.tick.pixelAt x y = s.pixelAt x y := rfl
@[simp] theorem State.tick_isPressed (q : KeyCode) : s.tick.isPressed q = s.isPressed q := rfl

/-! ### Registers and keys after an update -/

@[simp] theorem State.setReg_reg (r q : Reg) (b : Byte) : (s.setReg r b).reg q = if q = r then b else s.reg q := by
  simp only [State.reg, State.setReg, Vector.getElem_set, Fin.ext_iff]
  split <;> split <;> first | rfl | omega

@[simp] theorem State.setRegFlag_reg (r q : Reg) (b f : Byte) :
    (s.setRegFlag r b f).reg q = if q = Reg.vf then f else if q = r then b else s.reg q := by
  simp [State.setRegFlag]

@[simp] theorem State.setLowRegs_reg (bs : List Byte) (q : Reg) :
    (s.setLowRegs bs).reg q = bs.getD q.val (s.reg q) := by
  simp [State.reg, State.setLowRegs]

@[simp] theorem State.setKey_isPressed (k q : KeyCode) (p : Bool) :
    (s.setKey k p).isPressed q = if q = k then p else s.isPressed q := by
  simp only [State.isPressed, State.setKey, Vector.getElem_set, Fin.ext_iff]
  split <;> split <;> first | rfl | omega

/-- The fetch looks at PC, the configuration and the memory alone. -/
@[simp] theorem State.setSchedule_fetchWord (ops : List Operation) : (s.setSchedule ops).fetchWord = s.fetchWord := rfl

@[simp] theorem State.setFb_pixelAt (f : FrameBuffer) (x : Fin 64) (y : Fin 32) :
    (s.setFb f).pixelAt x y = f.pixel x.val y.val := rfl

end Sys2Proof.Machine
end

