-- ==== Sys2Proof/Laws/Memory.lean ====
section
/-! SUPPORT. Memory: a read after a write, and every memory operation keeps the canonical form. -/

namespace Sys2Proof.Machine

variable (cfg : Config)

/-! ### What is read after a write -/

theorem Memory.get_erase (m : Memory) (a q : Nat) :
    Memory.get cfg (Memory.erase m a) q = if q = a then Memory.unlisted cfg q else Memory.get cfg m q := by
  induction m with
  | nil => simp [Memory.erase, Memory.get]
  | cons c m ih =>
    obtain ⟨k, c⟩ := c
    unfold Memory.erase at ih ⊢
    by_cases hk : k = a
    · subst hk
      by_cases hq : q = k
      · subst hq; simpa [Memory.get] using ih
      · simp [Memory.get, ih, hq]
    · by_cases hq : q = k
      · subst hq; simp [Memory.get, hk]
      · simp [Memory.get, hk, hq, ih]

theorem Memory.get_place (m : Memory) (a q : Nat) (b : Byte) (ha : Memory.get cfg m a = Memory.unlisted cfg a ∧ ∀ c ∈ m, c.1 ≠ a) :
    Memory.get cfg (Memory.place m a b) q = if q = a then b else Memory.get cfg m q := by
  obtain ⟨-, ha⟩ := ha
  induction m with
  | nil => simp [Memory.place, Memory.get]
  | cons c m ih =>
    obtain ⟨k, c⟩ := c
    have hk : k ≠ a := ha (k, c) (by simp)
    have ih := ih fun d hd => ha d (by simp [hd])
    unfold Memory.place
    split
    · simp [Memory.get]
    · simp only [Memory.get, ih]
      by_cases hq : q = k
      · subst hq; simp [hk]
      · simp [hq]

theorem Memory.get_insert (m : Memory) (a q : Nat) (b : Byte) :
    Memory.get cfg (Memory.insert cfg m a b) q = if q = a then b else Memory.get cfg m q := by
  unfold Memory.insert
  split
  · rename_i h
    rw [Memory.get_erase]
    split
    · rename_i hq; rw [hq, h]
    · rfl
  · rw [Memory.get_place cfg _ _ _ _ ⟨by simp [Memory.get_erase], by simp [Memory.erase]⟩, Memory.get_erase]
    split <;> rfl

theorem Memory.get_set (m : Memory) (a q : Nat) (b : Byte) :
    Memory.get cfg (Memory.set cfg m a b) q = if q = a ∧ a ≤ maxAddr then b else Memory.get cfg m q := by
  unfold Memory.set
  split
  · rename_i h; simp [Memory.get_insert, h]
  · rename_i h; simp [h]

/-- What consecutive writes leave at an address: the byte written there, or what was there before. -/
theorem Memory.get_setBytes (bs : List Byte) (m : Memory) (a q : Nat) :
    Memory.get cfg (Memory.setBytes cfg m a bs) q =
      if a ≤ q ∧ q < a + bs.length ∧ q ≤ maxAddr then bs.getD (q - a) 0 else Memory.get cfg m q := by
  induction bs generalizing m a with
  | nil =>
    rw [Memory.setBytes, if_neg]
    simp only [List.length_nil]; omega
  | cons b bs ih =>
    rw [Memory.setBytes, ih, Memory.get_set]
    by_cases hq : q = a
    · subst hq
      have h1 : ¬ (q + 1 ≤ q ∧ q < q + 1 + bs.length ∧ q ≤ maxAddr) := by omega
      rw [if_neg h1]
      by_cases hm : q ≤ maxAddr
      · rw [if_pos ⟨rfl, hm⟩, if_pos ⟨le_refl _, by simp, hm⟩]; simp
      · rw [if_neg (by tauto), if_neg (by tauto)]
    · rw [if_neg fun h : q = a ∧ a ≤ maxAddr => hq h.1]
      by_cases h : a + 1 ≤ q ∧ q < a + 1 + bs.length ∧ q ≤ maxAddr
      · rw [if_pos h, if_pos ⟨by omega, by simp only [List.length_cons]; omega, h.2.2⟩]
        have : q - a = (q - (a + 1)) + 1 := by omega
        rw [this, List.getD_cons_succ]
      · rw [if_neg h, if_neg]
        simp only [List.length_cons]; omega

/-- The byte at an address after a store of consecutive bytes. -/
theorem State.storeBytes_load (s : State) (a q : Nat) (bs : List Byte) :
    (s.storeBytes a bs).load q =
      if a ≤ q ∧ q < a + bs.length ∧ q ≤ maxAddr then bs.getD (q - a) 0 else s.load q :=
  Memory.get_setBytes s.cfg bs s.mem a q

/-- A store leaves every address outside the bytes stored alone. -/
theorem State.storeBytes_load_other (s : State) (a q : Nat) (bs : List Byte) (h : ¬ (a ≤ q ∧ q < a + bs.length)) :
    (s.storeBytes a bs).load q = s.load q := by
  rw [State.storeBytes_load, if_neg (by tauto)]

/-! ### The canonical form -/

theorem Memory.wfFrom_mono {lo lo' : Nat} {m : Memory} (h : lo' ≤ lo) (hm : Memory.wfFrom cfg lo m = true) :
    Memory.wfFrom cfg lo' m = true := by
  cases m with
  | nil => rfl
  | cons c m =>
    simp only [Memory.wfFrom, Bool.and_eq_true, decide_eq_true_eq] at hm ⊢
    exact ⟨⟨by omega, hm.1.2⟩, hm.2⟩

theorem Memory.wfFrom_erase {lo : Nat} {m : Memory} (a : Nat) (hm : Memory.wfFrom cfg lo m = true) :
    Memory.wfFrom cfg lo (Memory.erase m a) = true := by
  induction m generalizing lo with
  | nil => rfl
  | cons c m ih =>
    obtain ⟨k, c⟩ := c
    simp only [Memory.wfFrom, Bool.and_eq_true, decide_eq_true_eq] at hm
    have ih := ih hm.2
    unfold Memory.erase at ih ⊢
    by_cases hk : k = a
    · simp only [List.filter_cons, hk, bne_self_eq_false, Bool.false_eq_true, if_false]
      subst hk
      exact Memory.wfFrom_mono cfg (by omega) ih
    · have hk' : ((k, c).1 != a) = true := by simpa using hk
      rw [List.filter_cons, if_pos hk']
      simp only [Memory.wfFrom, Bool.and_eq_true, decide_eq_true_eq]
      exact ⟨hm.1, ih⟩

theorem Memory.wfFrom_place {lo a : Nat} {b : Byte} {m : Memory} (hm : Memory.wfFrom cfg lo m = true) (hlo : lo ≤ a)
    (ha : a ≤ maxAddr) (hb : b ≠ Memory.unlisted cfg a) (hfree : ∀ c ∈ m, c.1 ≠ a) :
    Memory.wfFrom cfg lo (Memory.place m a b) = true := by
  induction m generalizing lo with
  | nil => simp [Memory.place, Memory.wfFrom, hlo, hb]; omega
  | cons c m ih =>
    obtain ⟨k, c⟩ := c
    simp only [Memory.wfFrom, Bool.and_eq_true, decide_eq_true_eq] at hm
    have hk : k ≠ a := hfree (k, c) (by simp)
    unfold Memory.place
    split
    · simp only [Memory.wfFrom, Bool.and_eq_true, decide_eq_true_eq]
      exact ⟨⟨hlo, ha, hb⟩, ⟨by omega, hm.1.2⟩, hm.2⟩
    · simp only [Memory.wfFrom, Bool.and_eq_true, decide_eq_true_eq]
      exact ⟨hm.1, ih hm.2 (by omega) fun d hd => hfree d (by simp [hd])⟩

/-- A write keeps the canonical form. -/
theorem Memory.wf_set {m : Memory} (a : Nat) (b : Byte) (hm : Memory.wf cfg m = true) :
    Memory.wf cfg (Memory.set cfg m a b) = true := by
  unfold Memory.set Memory.insert
  split
  · rename_i ha
    split
    · exact Memory.wfFrom_erase cfg a hm
    · rename_i hb
      exact Memory.wfFrom_place cfg (Memory.wfFrom_erase cfg a hm) (Nat.zero_le a) ha hb (by simp [Memory.erase])
  · exact hm

/-- Consecutive writes keep the canonical form. -/
theorem Memory.wf_setBytes (bs : List Byte) {m : Memory} (a : Nat) (hm : Memory.wf cfg m = true) :
    Memory.wf cfg (Memory.setBytes cfg m a bs) = true := by
  induction bs generalizing m a with
  | nil => exact hm
  | cons b bs ih => exact ih (a + 1) (Memory.wf_set cfg a b hm)

theorem State.storeBytes_memCanonical {s : State} (a : Nat) (bs : List Byte) (h : Memory.wf s.cfg s.mem = true) :
    Memory.wf (s.storeBytes a bs).cfg (s.storeBytes a bs).mem = true :=
  Memory.wf_setBytes s.cfg bs a h

/-- The memory after reset lists nothing, which is canonical. -/
theorem State.reset_wf : Memory.wf State.reset.cfg State.reset.mem = true := rfl

/-! ### Bytes read -/

@[simp] theorem State.loadBytes_length (s : State) (a n : Nat) : (s.loadBytes a n).length = n := by simp [State.loadBytes]

theorem State.loadBytes_getD (s : State) (a n k : Nat) (d : Byte) :
    (s.loadBytes a n).getD k d = if k < n then s.load (a + k) else d := by
  unfold State.loadBytes
  by_cases h : k < n <;> simp [List.getD, h]

theorem State.lowRegs_length (s : State) (x : Reg) : (s.lowRegs x).length = x.val + 1 := by
  simp [State.lowRegs]

theorem State.lowRegs_getD (s : State) (x k : Reg) (h : k ≤ x) (d : Byte) : (s.lowRegs x).getD k.val d = s.reg k := by
  have hk : k.val < x.val + 1 := by have := Fin.le_def.mp h; omega
  simp [State.lowRegs, State.reg, List.getD, hk]

end Sys2Proof.Machine
end

