-- ==== Sys2Proof/Laws/Ops.lean ====
section
/-! SUPPORT. One lemma per shared operation that says everything it can do: push and pop, taking a fault, the unknown word, the
fetch, the operand forms and the flags as numbers. -/

namespace Sys2Proof.Machine

variable (s : State)

/-! ### The call stack -/

/-- A push either finds the stack full, or adds one entry. -/
theorem State.push_cases (a : Word) :
    (s.sp.val = 16 ∧ s.push a = .error .stackOverflow) ∨
      ∃ t, s.sp.val < 16 ∧ s.push a = .ok t ∧ t.sp.val = s.sp.val + 1 ∧
        (∀ k : Fin 16, t.stack[k.val] = if k.val = s.sp.val then a else s.stack[k.val]) ∧
        Frame [.stack] s t := by
  have hlt := s.sp.isLt
  by_cases h : s.sp.val < 16
  · refine .inr ⟨_, h, by rw [State.push, dif_pos h], rfl, fun k => ?_, ?_⟩
    · simp only [Vector.getElem_set]
      by_cases hk : k.val = s.sp.val
      · rw [if_pos hk, if_pos hk.symm]
      · rw [if_neg hk, if_neg (Ne.symm hk)]
    · intro p hp
      cases p <;> first | rfl | exact fun _ => rfl | exact fun _ _ => rfl | simp at hp
  · exact .inl ⟨by omega, by rw [State.push, dif_neg h]⟩

/-- A pop either finds the stack empty, or takes the newest entry off and leaves it in place. -/
theorem State.pop_cases :
    (s.sp.val = 0 ∧ s.pop = .error .stackUnderflow) ∨
      ∃ a t, s.sp.val ≠ 0 ∧ s.pop = .ok (a, t) ∧ t.sp.val = s.sp.val - 1 ∧
        (∀ k : Fin 16, k.val + 1 = s.sp.val → a = s.stack[k.val]) ∧ t.stack = s.stack ∧ Frame [.stack] s t := by
  by_cases h : s.sp.val = 0
  · exact .inl ⟨h, by rw [State.pop, dif_pos h]⟩
  · have hlt := s.sp.isLt
    refine .inr ⟨_, { s with sp := ⟨s.sp.val - 1, by omega⟩ }, h, by rw [State.pop, dif_neg h], rfl, fun k hk => ?_, rfl, ?_⟩
    · congr 1; omega
    · intro p hp
      cases p <;> first | rfl | exact fun _ => rfl | exact fun _ _ => rfl | simp at hp

/-! ### Frames and shapes -/

theorem Frame.trans {ps : List Part} {s t u : State} (h1 : Frame ps s t) (h2 : Frame ps t u) : Frame ps s u := by
  intro p hp
  have a1 := h1 p hp
  have a2 := h2 p hp
  cases p <;> simp_all [Part.Same]

theorem Frame.mono {ps qs : List Part} {s t : State} (h : Frame ps s t) (hsub : ∀ p ∈ ps, p ∈ qs) : Frame qs s t :=
  fun p hp => h p fun hin => hp (hsub p hin)

/-- Setting PC is all that `setPc` does. -/
theorem State.setPc_setsPc (w : Word) : SetsPc (.next (s.setPc w)) s w := by
  refine ⟨_, rfl, rfl, ?_⟩
  intro p hp
  cases p <;> simp_all [Part.Same]

/-- A register write and the advance of PC. -/
theorem State.setReg_writesReg (x : Reg) (b : Byte) {n : Nat} (h : b.toNat = n) :
    WritesReg (.next (s.setReg x b).advance) s x n := by
  refine ⟨_, rfl, by simp [h], fun r hr => by simp [hr], rfl, ?_⟩
  intro p hp
  cases p <;> simp_all [Part.Same]

/-- A result, then a flag, then the advance of PC. -/
theorem State.setRegFlag_writes (x : Reg) (b f : Byte) {n m : Nat} (hb : b.toNat = n) (hf : f.toNat = m) :
    WritesRegAndFlag (.next (s.setRegFlag x b f).advance) s x n m := by
  refine ⟨_, rfl, by simp [hf], fun hx => by simp [hx, hb], fun r hr hv => by simp [hr, hv], rfl, ?_⟩
  intro p hp
  cases p <;> simp_all [Part.Same]

/-! ### Faults and unknown words -/

/-- Taking a fault changes RUN and FAULT alone. -/
theorem State.raise_frame (c : Fault) (w : Option Word) : Frame [.run, .fault] s (s.raise c w) := by
  intro p hp
  cases p <;> simp_all [Part.Same]

theorem State.raise_takesFault (c : Fault) (w : Option Word) : TakesFault (.next (s.raise c w)) s c w :=
  ⟨_, rfl, rfl, rfl, s.raise_frame c w⟩

/-- An unknown word halts the machine or is skipped, by the policy. -/
theorem State.unknownWord_cases (w : Word) :
    (s.cfg.unknownOpcodePolicy = .halt ∧ s.unknownWord w = s.raise .unknownOpcode (some w)) ∨
      (s.cfg.unknownOpcodePolicy = .skip ∧ s.unknownWord w = s.advance) := by
  unfold State.unknownWord
  cases s.cfg.unknownOpcodePolicy <;> simp

/-! ### The fetch -/

@[simp] theorem inBounds_eq_true (last : Nat) : inBounds last = true ↔ last ≤ 4095 := by simp [inBounds]

theorem wordOfBytes_toNat (hi lo : Byte) : (wordOfBytes hi lo).toNat = hi.toNat * 256 + lo.toNat := by
  have := lo.isLt
  rw [wordOfBytes, BitVec.toNat_append, ← Nat.shiftLeft_add_eq_or_of_lt this, Nat.shiftLeft_eq]

/-- A fetch either finds an address that does not exist, or reads the two bytes, the first as the high one. -/
theorem State.fetchWord_cases :
    (4095 < s.pc.toNat + 1 ∧ s.fetchWord = none) ∨
      ∃ w, s.pc.toNat + 1 ≤ 4095 ∧ s.fetchWord = some w ∧
        w.toNat = (s.load s.pc.toNat).toNat * 256 + (s.load (s.pc.toNat + 1)).toNat := by
  by_cases h : s.pc.toNat + 1 ≤ 4095
  · exact .inr ⟨_, h, by simp [State.fetchWord, h], wordOfBytes_toNat _ _⟩
  · exact .inl ⟨by omega, by simp [State.fetchWord, h]⟩

/-! ### Operands -/

theorem addrOperand_toNat (nnn : Imm12) : (addrOperand nnn).toNat = nnn.toNat := by
  have := nnn.isLt
  simp [addrOperand]; omega

theorem jumpX_val (nnn : Imm12) : (jumpX nnn).val = nnn.toNat / 256 := by
  have := nnn.isLt
  simp [jumpX, Nat.shiftRight_eq_div_pow]; omega

theorem lowNibble_val (b : Byte) : (lowNibble b).val = b.toNat % 16 := by
  simp [lowNibble]

theorem glyphAddr_toNat (cfg : Config) (d : KeyCode) : (glyphAddr cfg d).toNat = cfg.fontBase.val + 5 * d.val := by
  have h1 := cfg.fontBase.isLt
  have h2 := d.isLt
  simp [glyphAddr]; omega

theorem decimalDigits_toNat (b : Byte) :
    (decimalDigits b).map BitVec.toNat = [b.toNat / 100, b.toNat / 10 % 10, b.toNat % 10] := by
  have := b.isLt
  simp [decimalDigits]; omega

/-! ### Flags -/

@[simp] theorem flagByte_toNat (c : Bool) : (flagByte c).toNat = if c then 1 else 0 := by cases c <;> rfl

theorem flagByte_zero_or_one (c : Bool) : flagByte c = 0 ∨ flagByte c = 1 := by cases c <;> simp [flagByte]

theorem carryFlag_toNat (a b : Byte) : (carryFlag a b).toNat = if a.toNat + b.toNat > 255 then 1 else 0 := by
  simp [carryFlag]

theorem notBorrowFlag_toNat (a b : Byte) : (notBorrowFlag a b).toNat = if b.toNat ≤ a.toNat then 1 else 0 := by
  simp [notBorrowFlag]

theorem shiftRightFlag_toNat (b : Byte) : (shiftRightFlag b).toNat = b.toNat % 2 := by
  have h := Nat.mod_two_eq_zero_or_one b.toNat
  rcases h with h | h <;> simp [shiftRightFlag, BitVec.getLsbD, Nat.testBit, h]

theorem shiftLeftFlag_toNat (b : Byte) : (shiftLeftFlag b).toNat = b.toNat / 128 := by
  have := b.isLt
  have h : b.toNat / 128 = 0 ∨ b.toNat / 128 = 1 := by omega
  rcases h with h | h <;>
    simp [shiftLeftFlag, BitVec.getLsbD, Nat.testBit, Nat.shiftRight_eq_div_pow, h]

theorem indexOverflowFlag_toNat (n : Nat) : (indexOverflowFlag n).toNat = if n > 0x0FFF then 1 else 0 := by
  simp [indexOverflowFlag]

end Sys2Proof.Machine
end

