-- ==== Sys2Proof/Laws/PerInstr.lean ====
section
/-! SUPPORT. Statements about every instruction as syntax, one lemma per constructor: its word has its row's fixed bits
(30_encoding.md R73), and its operands fit their fields (R71). -/

namespace Sys2Proof.Laws

/-! ### The operand bits keep clear of the fixed bits -/

theorem nnn_clear (nnn : Imm12) : formatNnn nnn &&& 0xF000 = 0 := by
  apply BitVec.eq_of_getLsbD_eq
  intro k hk
  simp only [BitVec.getLsbD_and, formatNnn, BitVec.getLsbD_append]
  interval_cases k <;> simp

theorem xnn_clear (x : Reg) (nn : Byte) : formatXnn x nn &&& 0xF000 = 0 := by
  apply BitVec.eq_of_getLsbD_eq
  intro k hk
  simp only [BitVec.getLsbD_and, formatXnn, BitVec.getLsbD_append]
  interval_cases k <;> simp

theorem xyn_clear (x y : Reg) (n : Nibble) : formatXyn x y n &&& 0xF000 = 0 := by
  apply BitVec.eq_of_getLsbD_eq
  intro k hk
  simp only [BitVec.getLsbD_and, formatXyn, BitVec.getLsbD_append]
  interval_cases k <;> simp

theorem xy_clear (x y : Reg) : formatXyn x y 0 &&& 0xF00F = 0 := by
  apply BitVec.eq_of_getLsbD_eq
  intro k hk
  simp only [BitVec.getLsbD_and, formatXyn, BitVec.getLsbD_append]
  interval_cases k <;> simp

theorem x_clear (x : Reg) : formatXnn x 0 &&& 0xF0FF = 0 := by
  apply BitVec.eq_of_getLsbD_eq
  intro k hk
  simp only [BitVec.getLsbD_and, formatXnn, BitVec.getLsbD_append]
  interval_cases k <;> simp

/-- A word made of a row's pattern and clear operand bits matches the row. -/
theorem row_of_fieldBits (i : Instr) (hp : i.row.pattern &&& i.row.mask = i.row.pattern) (hf : i.fieldBits &&& i.row.mask = 0) :
    encode i &&& i.row.mask = i.row.pattern := by
  have distrib : ∀ a b m : Word, (a ||| b) &&& m = (a &&& m) ||| (b &&& m) := by
    intro a b m
    apply BitVec.eq_of_getLsbD_eq
    intro k _
    simp [Bool.and_or_distrib_right]
  rw [encode, distrib, hp, hf]
  simp

end Sys2Proof.Laws

namespace Sys2Proof.Laws.EncodingRow

/-- The word of an instruction has the fixed bits of the instruction's row: `w AND mask = match` (R73). -/
def Statement (i : Instr) : Prop := encode i &&& i.row.mask = i.row.pattern

theorem cls : Statement .cls := row_of_fieldBits _ (by simp only [Instr.row]; decide) rfl
theorem ret : Statement .ret := row_of_fieldBits _ (by simp only [Instr.row]; decide) rfl
theorem jp (nnn : Imm12) : Statement (.jp nnn) := row_of_fieldBits _ (by simp only [Instr.row]; decide) (by simpa only [Instr.fieldBits, Instr.row] using nnn_clear _)
theorem call (nnn : Imm12) : Statement (.call nnn) := row_of_fieldBits _ (by simp only [Instr.row]; decide) (by simpa only [Instr.fieldBits, Instr.row] using nnn_clear _)
theorem seImm (x : Reg) (nn : Byte) : Statement (.seImm x nn) := row_of_fieldBits _ (by simp only [Instr.row]; decide) (by simpa only [Instr.fieldBits, Instr.row] using xnn_clear _ _)
theorem sneImm (x : Reg) (nn : Byte) : Statement (.sneImm x nn) := row_of_fieldBits _ (by simp only [Instr.row]; decide) (by simpa only [Instr.fieldBits, Instr.row] using xnn_clear _ _)
theorem seReg (x : Reg) (y : Reg) : Statement (.seReg x y) := row_of_fieldBits _ (by simp only [Instr.row]; decide) (by simpa only [Instr.fieldBits, Instr.row] using xy_clear _ _)
theorem ldImm (x : Reg) (nn : Byte) : Statement (.ldImm x nn) := row_of_fieldBits _ (by simp only [Instr.row]; decide) (by simpa only [Instr.fieldBits, Instr.row] using xnn_clear _ _)
theorem addImm (x : Reg) (nn : Byte) : Statement (.addImm x nn) := row_of_fieldBits _ (by simp only [Instr.row]; decide) (by simpa only [Instr.fieldBits, Instr.row] using xnn_clear _ _)
theorem ldReg (x : Reg) (y : Reg) : Statement (.ldReg x y) := row_of_fieldBits _ (by simp only [Instr.row]; decide) (by simpa only [Instr.fieldBits, Instr.row] using xy_clear _ _)
theorem orReg (x : Reg) (y : Reg) : Statement (.orReg x y) := row_of_fieldBits _ (by simp only [Instr.row]; decide) (by simpa only [Instr.fieldBits, Instr.row] using xy_clear _ _)
theorem andReg (x : Reg) (y : Reg) : Statement (.andReg x y) := row_of_fieldBits _ (by simp only [Instr.row]; decide) (by simpa only [Instr.fieldBits, Instr.row] using xy_clear _ _)
theorem xorReg (x : Reg) (y : Reg) : Statement (.xorReg x y) := row_of_fieldBits _ (by simp only [Instr.row]; decide) (by simpa only [Instr.fieldBits, Instr.row] using xy_clear _ _)
theorem addReg (x : Reg) (y : Reg) : Statement (.addReg x y) := row_of_fieldBits _ (by simp only [Instr.row]; decide) (by simpa only [Instr.fieldBits, Instr.row] using xy_clear _ _)
theorem sub (x : Reg) (y : Reg) : Statement (.sub x y) := row_of_fieldBits _ (by simp only [Instr.row]; decide) (by simpa only [Instr.fieldBits, Instr.row] using xy_clear _ _)
theorem shr (x : Reg) (y : Reg) : Statement (.shr x y) := row_of_fieldBits _ (by simp only [Instr.row]; decide) (by simpa only [Instr.fieldBits, Instr.row] using xy_clear _ _)
theorem subn (x : Reg) (y : Reg) : Statement (.subn x y) := row_of_fieldBits _ (by simp only [Instr.row]; decide) (by simpa only [Instr.fieldBits, Instr.row] using xy_clear _ _)
theorem shl (x : Reg) (y : Reg) : Statement (.shl x y) := row_of_fieldBits _ (by simp only [Instr.row]; decide) (by simpa only [Instr.fieldBits, Instr.row] using xy_clear _ _)
theorem sneReg (x : Reg) (y : Reg) : Statement (.sneReg x y) := row_of_fieldBits _ (by simp only [Instr.row]; decide) (by simpa only [Instr.fieldBits, Instr.row] using xy_clear _ _)
theorem ldI (nnn : Imm12) : Statement (.ldI nnn) := row_of_fieldBits _ (by simp only [Instr.row]; decide) (by simpa only [Instr.fieldBits, Instr.row] using nnn_clear _)
theorem jpOff (nnn : Imm12) : Statement (.jpOff nnn) := row_of_fieldBits _ (by simp only [Instr.row]; decide) (by simpa only [Instr.fieldBits, Instr.row] using nnn_clear _)
theorem rnd (x : Reg) (nn : Byte) : Statement (.rnd x nn) := row_of_fieldBits _ (by simp only [Instr.row]; decide) (by simpa only [Instr.fieldBits, Instr.row] using xnn_clear _ _)
theorem drw (x : Reg) (y : Reg) (n : Nibble) : Statement (.drw x y n) := row_of_fieldBits _ (by simp only [Instr.row]; decide) (by simpa only [Instr.fieldBits, Instr.row] using xyn_clear _ _ _)
theorem skp (x : Reg) : Statement (.skp x) := row_of_fieldBits _ (by simp only [Instr.row]; decide) (by simpa only [Instr.fieldBits, Instr.row] using x_clear _)
theorem sknp (x : Reg) : Statement (.sknp x) := row_of_fieldBits _ (by simp only [Instr.row]; decide) (by simpa only [Instr.fieldBits, Instr.row] using x_clear _)
theorem ldVxDt (x : Reg) : Statement (.ldVxDt x) := row_of_fieldBits _ (by simp only [Instr.row]; decide) (by simpa only [Instr.fieldBits, Instr.row] using x_clear _)
theorem ldVxK (x : Reg) : Statement (.ldVxK x) := row_of_fieldBits _ (by simp only [Instr.row]; decide) (by simpa only [Instr.fieldBits, Instr.row] using x_clear _)
theorem ldDtVx (x : Reg) : Statement (.ldDtVx x) := row_of_fieldBits _ (by simp only [Instr.row]; decide) (by simpa only [Instr.fieldBits, Instr.row] using x_clear _)
theorem ldStVx (x : Reg) : Statement (.ldStVx x) := row_of_fieldBits _ (by simp only [Instr.row]; decide) (by simpa only [Instr.fieldBits, Instr.row] using x_clear _)
theorem addI (x : Reg) : Statement (.addI x) := row_of_fieldBits _ (by simp only [Instr.row]; decide) (by simpa only [Instr.fieldBits, Instr.row] using x_clear _)
theorem ldF (x : Reg) : Statement (.ldF x) := row_of_fieldBits _ (by simp only [Instr.row]; decide) (by simpa only [Instr.fieldBits, Instr.row] using x_clear _)
theorem ldB (x : Reg) : Statement (.ldB x) := row_of_fieldBits _ (by simp only [Instr.row]; decide) (by simpa only [Instr.fieldBits, Instr.row] using x_clear _)
theorem stRegs (x : Reg) : Statement (.stRegs x) := row_of_fieldBits _ (by simp only [Instr.row]; decide) (by simpa only [Instr.fieldBits, Instr.row] using x_clear _)
theorem ldRegs (x : Reg) : Statement (.ldRegs x) := row_of_fieldBits _ (by simp only [Instr.row]; decide) (by simpa only [Instr.fieldBits, Instr.row] using x_clear _)

end Sys2Proof.Laws.EncodingRow

namespace Sys2Proof.Laws.OperandsFit

/-- An instruction is well-formed: every operand fits its field (R71). -/
def Statement (i : Instr) : Prop := i.wellFormed = true

theorem fits_reg (x : Reg) : Operand.fits ⟨.reg, x.val⟩ = true := by simp [Operand.fits, FieldKind.width]
theorem fits_n (n : Nibble) : Operand.fits ⟨.n, n.toNat⟩ = true := by simp [Operand.fits, FieldKind.width, n.isLt]
theorem fits_nn (nn : Byte) : Operand.fits ⟨.nn, nn.toNat⟩ = true := by simp [Operand.fits, FieldKind.width, nn.isLt]
theorem fits_nnn (nnn : Imm12) : Operand.fits ⟨.nnn, nnn.toNat⟩ = true := by
  simp [Operand.fits, FieldKind.width, nnn.isLt]

theorem cls : Statement .cls := rfl
theorem ret : Statement .ret := rfl
theorem jp (nnn : Imm12) : Statement (.jp nnn) := by
  simp [Statement, Instr.wellFormed, Instr.operands, Operand.allFit, fits_nnn]
theorem call (nnn : Imm12) : Statement (.call nnn) := by
  simp [Statement, Instr.wellFormed, Instr.operands, Operand.allFit, fits_nnn]
theorem seImm (x : Reg) (nn : Byte) : Statement (.seImm x nn) := by
  simp [Statement, Instr.wellFormed, Instr.operands, Operand.allFit, fits_reg, fits_nn]
theorem sneImm (x : Reg) (nn : Byte) : Statement (.sneImm x nn) := by
  simp [Statement, Instr.wellFormed, Instr.operands, Operand.allFit, fits_reg, fits_nn]
theorem seReg (x : Reg) (y : Reg) : Statement (.seReg x y) := by
  simp [Statement, Instr.wellFormed, Instr.operands, Operand.allFit, fits_reg]
theorem ldImm (x : Reg) (nn : Byte) : Statement (.ldImm x nn) := by
  simp [Statement, Instr.wellFormed, Instr.operands, Operand.allFit, fits_reg, fits_nn]
theorem addImm (x : Reg) (nn : Byte) : Statement (.addImm x nn) := by
  simp [Statement, Instr.wellFormed, Instr.operands, Operand.allFit, fits_reg, fits_nn]
theorem ldReg (x : Reg) (y : Reg) : Statement (.ldReg x y) := by
  simp [Statement, Instr.wellFormed, Instr.operands, Operand.allFit, fits_reg]
theorem orReg (x : Reg) (y : Reg) : Statement (.orReg x y) := by
  simp [Statement, Instr.wellFormed, Instr.operands, Operand.allFit, fits_reg]
theorem andReg (x : Reg) (y : Reg) : Statement (.andReg x y) := by
  simp [Statement, Instr.wellFormed, Instr.operands, Operand.allFit, fits_reg]
theorem xorReg (x : Reg) (y : Reg) : Statement (.xorReg x y) := by
  simp [Statement, Instr.wellFormed, Instr.operands, Operand.allFit, fits_reg]
theorem addReg (x : Reg) (y : Reg) : Statement (.addReg x y) := by
  simp [Statement, Instr.wellFormed, Instr.operands, Operand.allFit, fits_reg]
theorem sub (x : Reg) (y : Reg) : Statement (.sub x y) := by
  simp [Statement, Instr.wellFormed, Instr.operands, Operand.allFit, fits_reg]
theorem shr (x : Reg) (y : Reg) : Statement (.shr x y) := by
  simp [Statement, Instr.wellFormed, Instr.operands, Operand.allFit, fits_reg]
theorem subn (x : Reg) (y : Reg) : Statement (.subn x y) := by
  simp [Statement, Instr.wellFormed, Instr.operands, Operand.allFit, fits_reg]
theorem shl (x : Reg) (y : Reg) : Statement (.shl x y) := by
  simp [Statement, Instr.wellFormed, Instr.operands, Operand.allFit, fits_reg]
theorem sneReg (x : Reg) (y : Reg) : Statement (.sneReg x y) := by
  simp [Statement, Instr.wellFormed, Instr.operands, Operand.allFit, fits_reg]
theorem ldI (nnn : Imm12) : Statement (.ldI nnn) := by
  simp [Statement, Instr.wellFormed, Instr.operands, Operand.allFit, fits_nnn]
theorem jpOff (nnn : Imm12) : Statement (.jpOff nnn) := by
  simp [Statement, Instr.wellFormed, Instr.operands, Operand.allFit, fits_nnn]
theorem rnd (x : Reg) (nn : Byte) : Statement (.rnd x nn) := by
  simp [Statement, Instr.wellFormed, Instr.operands, Operand.allFit, fits_reg, fits_nn]
theorem drw (x : Reg) (y : Reg) (n : Nibble) : Statement (.drw x y n) := by
  simp [Statement, Instr.wellFormed, Instr.operands, Operand.allFit, fits_reg, fits_n]
theorem skp (x : Reg) : Statement (.skp x) := by
  simp [Statement, Instr.wellFormed, Instr.operands, Operand.allFit, fits_reg]
theorem sknp (x : Reg) : Statement (.sknp x) := by
  simp [Statement, Instr.wellFormed, Instr.operands, Operand.allFit, fits_reg]
theorem ldVxDt (x : Reg) : Statement (.ldVxDt x) := by
  simp [Statement, Instr.wellFormed, Instr.operands, Operand.allFit, fits_reg]
theorem ldVxK (x : Reg) : Statement (.ldVxK x) := by
  simp [Statement, Instr.wellFormed, Instr.operands, Operand.allFit, fits_reg]
theorem ldDtVx (x : Reg) : Statement (.ldDtVx x) := by
  simp [Statement, Instr.wellFormed, Instr.operands, Operand.allFit, fits_reg]
theorem ldStVx (x : Reg) : Statement (.ldStVx x) := by
  simp [Statement, Instr.wellFormed, Instr.operands, Operand.allFit, fits_reg]
theorem addI (x : Reg) : Statement (.addI x) := by
  simp [Statement, Instr.wellFormed, Instr.operands, Operand.allFit, fits_reg]
theorem ldF (x : Reg) : Statement (.ldF x) := by
  simp [Statement, Instr.wellFormed, Instr.operands, Operand.allFit, fits_reg]
theorem ldB (x : Reg) : Statement (.ldB x) := by
  simp [Statement, Instr.wellFormed, Instr.operands, Operand.allFit, fits_reg]
theorem stRegs (x : Reg) : Statement (.stRegs x) := by
  simp [Statement, Instr.wellFormed, Instr.operands, Operand.allFit, fits_reg]
theorem ldRegs (x : Reg) : Statement (.ldRegs x) := by
  simp [Statement, Instr.wellFormed, Instr.operands, Operand.allFit, fits_reg]

end Sys2Proof.Laws.OperandsFit
end

