-- ==== Sys2Proof/Laws/Decode.lean ====
section
/-! SUPPORT. The fields of a word and the words of the instructions as numbers (30_encoding.md R71, R72): with them a question about
decoding or encoding is arithmetic on one number below 65536. -/

namespace Sys2Proof

theorem append_toNat {n m : Nat} (a : BitVec n) (b : BitVec m) : (a ++ b).toNat = a.toNat * 2 ^ m + b.toNat := by
  rw [BitVec.toNat_append, ← Nat.shiftLeft_add_eq_or_of_lt b.isLt, Nat.shiftLeft_eq]

/-! ### The fields of a word -/

theorem classField_toNat (w : Word) : (classField w).toNat = w.toNat / 4096 := by
  have := w.isLt
  simp [classField, Nat.shiftRight_eq_div_pow]; omega

theorem nField_toNat (w : Word) : (nField w).toNat = w.toNat % 16 := by simp [nField]

theorem nnField_toNat (w : Word) : (nnField w).toNat = w.toNat % 256 := by simp [nnField]

theorem nnnField_toNat (w : Word) : (nnnField w).toNat = w.toNat % 4096 := by simp [nnnField]

theorem xField_val (w : Word) : (xField w).val = w.toNat / 256 % 16 := by simp [xField, Nat.shiftRight_eq_div_pow]

theorem yField_val (w : Word) : (yField w).val = w.toNat / 16 % 16 := by simp [yField, Nat.shiftRight_eq_div_pow]

/-! ### The word of an instruction -/

theorem formatNnn_toNat (nnn : Imm12) : (formatNnn nnn).toNat = nnn.toNat := by
  simp only [formatNnn, append_toNat]; simp

theorem formatXnn_toNat (x : Reg) (nn : Byte) : (formatXnn x nn).toNat = x.val * 256 + nn.toNat := by
  simp only [formatXnn, append_toNat]; simp [regField]

theorem formatXyn_toNat (x y : Reg) (n : Nibble) : (formatXyn x y n).toNat = x.val * 256 + y.val * 16 + n.toNat := by
  simp only [formatXyn, append_toNat]; simp [regField]; omega

/-- Two words with no common bit: their OR is their sum. -/
theorem or_toNat_of_apart (p f m : Word) (hp : p &&& m = p) (hf : f &&& m = 0) : (p ||| f).toNat = p.toNat + f.toNat := by
  have apart : p &&& f = 0 := by
    apply BitVec.eq_of_getLsbD_eq
    intro k _
    have a := congrArg (fun w => w.getLsbD k) hp
    have b := congrArg (fun w => w.getLsbD k) hf
    revert a b
    simp only [BitVec.getLsbD_and]
    cases p.getLsbD k <;> cases f.getLsbD k <;> cases m.getLsbD k <;> simp
  rw [← BitVec.add_eq_or_of_and_eq_zero _ _ apart, BitVec.toNat_add_of_and_eq_zero apart]

/-- The word of an instruction is the sum of its fixed bits and its operand bits. -/
theorem encode_toNat (i : Instr) : (encode i).toNat = i.row.pattern.toNat + i.fieldBits.toNat := by
  apply or_toNat_of_apart _ _ i.row.mask
  · cases i <;> (simp only [Instr.row]; decide)
  · cases i <;> simp only [Instr.fieldBits, Instr.row, Laws.nnn_clear, Laws.xnn_clear, Laws.xyn_clear, Laws.xy_clear,
      Laws.x_clear] <;> rfl

/-- The two bytes of a word, read back big-endian. -/
theorem wordOfBytes_bytesOfWord (w : Word) : wordOfBytes (w.extractLsb' 8 8) (w.extractLsb' 0 8) = w := by
  apply BitVec.eq_of_toNat_eq
  have := w.isLt
  simp only [wordOfBytes, append_toNat]
  simp [Nat.shiftRight_eq_div_pow]; omega

end Sys2Proof
end

