-- ==== Sys2Proof/Laws/Display.lean ====
section
/-! SUPPORT. The display: what a flip, a plot and a whole draw do to every pixel, and when a draw collides. The draw of
44_display.md R161 is a loop over rows and columns; here it is seen as a list of plotted points no two of which land on one pixel
(R161 (c)), so each pixel changes by the exclusive or with "the sprite covers it". -/

namespace Sys2Proof.Machine

/-! ### Pixels -/

theorem FrameBuffer.pixel_clear (x y : Nat) : FrameBuffer.clear.pixel x y = false := by
  simp [FrameBuffer.pixel, FrameBuffer.clear]

theorem FrameBuffer.pixel_flip (f : FrameBuffer) {a b x y : Nat} (hx : x < 64) (hy : y < 32) :
    (f.flip a b).pixel x y = (f.pixel x y ^^ decide (a = x ∧ b = y)) := by
  unfold FrameBuffer.flip FrameBuffer.pixel
  by_cases hb : b < 32
  · rw [dif_pos hb, dif_pos hy, dif_pos hy, Vector.getElem_set]
    by_cases h : b = y
    · subst h
      by_cases ha : a = x
      · subst ha; simp [hx]
      · have : ¬ (a ≤ x ∧ x - a = 0) := by omega
        simp only [if_true, BitVec.getLsbD_xor, BitVec.getLsbD_shiftLeft, hx, decide_true, Bool.true_and, ha, false_and,
          decide_false, Bool.xor_false, BitVec.getLsbD_one]
        by_cases hlt : x < a
        · simp [hlt]
        · have : x - a ≠ 0 := by omega
          simp [this]
    · simp [h]
  · have : b ≠ y := by omega
    simp [hb, this]

/-- Where a point of a sprite lands: on its own coordinates, or on them modulo 64 and 32 (R162). -/
def Lands (clip : Bool) (p : Nat × Nat) (x y : Nat) : Prop :=
  if clip then p.1 = x ∧ p.2 = y else p.1 % 64 = x ∧ p.2 % 32 = y

theorem Draw.plot_pixel (clip : Bool) (p : Nat × Nat) (d : Draw) {x y : Nat} (hx : x < 64) (hy : y < 32) :
    ((d.plot clip p.1 p.2).fb.pixel x y = true) ↔ ((d.fb.pixel x y = true) ↔ ¬ Lands clip p x y) := by
  unfold Draw.plot Lands
  cases clip
  · have h1 : p.1 % 64 ≤ 63 ∧ p.2 % 32 ≤ 31 := by omega
    simp only [Bool.false_eq_true, if_false, h1, and_self, if_true, FrameBuffer.pixel_flip _ hx hy]
    by_cases h : p.1 % 64 = x ∧ p.2 % 32 = y <;> cases d.fb.pixel x y <;> simp [h]
  · by_cases hp : p.1 ≤ 63 ∧ p.2 ≤ 31
    · simp only [if_true, hp, and_self, FrameBuffer.pixel_flip _ hx hy]
      by_cases h : p.1 = x ∧ p.2 = y <;> cases d.fb.pixel x y <;> simp [h]
    · have h : ¬ (p.1 = x ∧ p.2 = y) := by omega
      simp [hp, h]

theorem Draw.plot_hit (clip : Bool) (p : Nat × Nat) (d : Draw) :
    (d.plot clip p.1 p.2).hit = true ↔
      d.hit = true ∨ ∃ x y, x < 64 ∧ y < 32 ∧ Lands clip p x y ∧ d.fb.pixel x y = true := by
  unfold Draw.plot Lands
  cases clip
  · have h1 : p.1 % 64 ≤ 63 ∧ p.2 % 32 ≤ 31 := by omega
    simp only [Bool.false_eq_true, if_false, h1, and_self, if_true, Bool.or_eq_true]
    constructor
    · rintro (h | h)
      · exact .inl h
      · exact .inr ⟨_, _, by omega, by omega, ⟨rfl, rfl⟩, h⟩
    · rintro (h | ⟨x, y, -, -, ⟨rfl, rfl⟩, h⟩)
      · exact .inl h
      · exact .inr h
  · simp only [if_true]
    split
    · simp only [Bool.or_eq_true]
      constructor
      · rintro (h | h)
        · exact .inl h
        · exact .inr ⟨_, _, by omega, by omega, ⟨rfl, rfl⟩, h⟩
      · rintro (h | ⟨x, y, -, -, ⟨rfl, rfl⟩, h⟩)
        · exact .inl h
        · exact .inr h
    · constructor
      · exact .inl
      · rintro (h | ⟨x, y, hx, hy, ⟨rfl, rfl⟩, -⟩)
        · exact h
        · omega

/-! ### A list of plotted points -/

/-- Points plotted one after the other. -/
def Draw.plots (clip : Bool) (ps : List (Nat × Nat)) (d : Draw) : Draw := ps.foldl (fun d p => d.plot clip p.1 p.2) d

/-- Two points that land on no common pixel. -/
def Apart (clip : Bool) (p q : Nat × Nat) : Prop := ∀ x y, Lands clip p x y → ¬ Lands clip q x y

theorem Draw.plots_pixel (clip : Bool) (ps : List (Nat × Nat)) (hps : ps.Pairwise (Apart clip)) (d : Draw) {x y : Nat} (hx : x < 64)
    (hy : y < 32) :
    ((d.plots clip ps).fb.pixel x y = true) ↔ ((d.fb.pixel x y = true) ↔ ¬ ∃ p ∈ ps, Lands clip p x y) := by
  induction ps generalizing d with
  | nil => simp [Draw.plots]
  | cons p ps ih =>
    obtain ⟨hp, hps⟩ := List.pairwise_cons.mp hps
    have ih := ih hps (d.plot clip p.1 p.2)
    rw [Draw.plot_pixel clip p d hx hy] at ih
    change ((Draw.plots clip ps (d.plot clip p.1 p.2)).fb.pixel x y = true) ↔ _
    rw [ih]
    by_cases h : Lands clip p x y
    · have hno : ¬ ∃ q ∈ ps, Lands clip q x y := fun ⟨q, hq, hl⟩ => hp q hq x y h hl
      simp [h, hno]
    · simp [h]

theorem Draw.plots_hit (clip : Bool) (ps : List (Nat × Nat)) (hps : ps.Pairwise (Apart clip)) (d : Draw) :
    (d.plots clip ps).hit = true ↔
      d.hit = true ∨ ∃ p ∈ ps, ∃ x y, x < 64 ∧ y < 32 ∧ Lands clip p x y ∧ d.fb.pixel x y = true := by
  induction ps generalizing d with
  | nil => simp [Draw.plots]
  | cons p ps ih =>
    obtain ⟨hp, hps⟩ := List.pairwise_cons.mp hps
    change (Draw.plots clip ps (d.plot clip p.1 p.2)).hit = true ↔ _
    rw [ih hps, Draw.plot_hit]
    have same : ∀ q ∈ ps, ∀ x y, x < 64 → y < 32 → Lands clip q x y →
        ((d.plot clip p.1 p.2).fb.pixel x y = true ↔ d.fb.pixel x y = true) := by
      intro q hq x y hx hy hl
      have : ¬ Lands clip p x y := fun h => hp q hq x y h hl
      rw [Draw.plot_pixel clip p d hx hy]; simp [this]
    constructor
    · rintro ((h | ⟨x, y, hx, hy, hl, h⟩) | ⟨q, hq, x, y, hx, hy, hl, h⟩)
      · exact .inl h
      · exact .inr ⟨p, by simp, x, y, hx, hy, hl, h⟩
      · exact .inr ⟨q, by simp [hq], x, y, hx, hy, hl, (same q hq x y hx hy hl).mp h⟩
    · rintro (h | ⟨q, hq, x, y, hx, hy, hl, h⟩)
      · exact .inl (.inl h)
      · rcases List.mem_cons.mp hq with rfl | hq
        · exact .inl (.inr ⟨x, y, hx, hy, hl, h⟩)
        · exact .inr ⟨q, hq, x, y, hx, hy, hl, (same q hq x y hx hy hl).mpr h⟩

/-! ### The points of a sprite -/

/-- The set bits of one sprite row, as points. -/
def rowPoints (x0 py : Nat) (b : Byte) (cs : List Nat) : List (Nat × Nat) :=
  (cs.filter fun c => b.getLsbD (7 - c)).map fun c => (x0 + c, py)

/-- The set bits of a sprite, as points. -/
def spritePoints (x0 : Nat) : Nat → List Byte → List (Nat × Nat)
  | _, [] => []
  | py, b :: bs => rowPoints x0 py b [0, 1, 2, 3, 4, 5, 6, 7] ++ spritePoints x0 (py + 1) bs

theorem Draw.columns_eq_plots (clip : Bool) (x0 py : Nat) (b : Byte) (cs : List Nat) (d : Draw) :
    Draw.columns clip x0 py b cs d = d.plots clip (rowPoints x0 py b cs) := by
  induction cs generalizing d with
  | nil => rfl
  | cons c cs ih =>
    rw [Draw.columns, ih]
    by_cases h : b.getLsbD (7 - c) = true <;> simp [rowPoints, Draw.plots, h]

theorem Draw.rows_eq_plots (clip : Bool) (x0 py : Nat) (bs : List Byte) (d : Draw) :
    Draw.rows clip x0 py bs d = d.plots clip (spritePoints x0 py bs) := by
  induction bs generalizing py d with
  | nil => rfl
  | cons b bs ih =>
    rw [Draw.rows, ih, Draw.columns_eq_plots]
    simp [spritePoints, Draw.plots]

theorem mem_rowPoints {x0 py : Nat} {b : Byte} {cs : List Nat} {p : Nat × Nat} :
    p ∈ rowPoints x0 py b cs ↔ ∃ c ∈ cs, b.getLsbD (7 - c) = true ∧ p = (x0 + c, py) := by
  simp only [rowPoints, List.mem_map, List.mem_filter]
  constructor
  · rintro ⟨c, ⟨hc, hb⟩, rfl⟩; exact ⟨c, hc, hb, rfl⟩
  · rintro ⟨c, hc, hb, rfl⟩; exact ⟨c, ⟨hc, hb⟩, rfl⟩

theorem mem_eight {c : Nat} : c ∈ [0, 1, 2, 3, 4, 5, 6, 7] ↔ c < 8 := by
  simp only [List.mem_cons, List.not_mem_nil, or_false]; omega

theorem mem_spritePoints {x0 : Nat} {bs : List Byte} {py : Nat} {p : Nat × Nat} :
    p ∈ spritePoints x0 py bs ↔
      ∃ c r, c < 8 ∧ r < bs.length ∧ (bs.getD r 0).getLsbD (7 - c) = true ∧ p = (x0 + c, py + r) := by
  induction bs generalizing py with
  | nil => simp [spritePoints]
  | cons b bs ih =>
    rw [spritePoints, List.mem_append, mem_rowPoints, ih]
    constructor
    · rintro (⟨c, hc, hb, rfl⟩ | ⟨c, r, hc, hr, hb, rfl⟩)
      · exact ⟨c, 0, mem_eight.mp hc, by simp, by simpa using hb, rfl⟩
      · exact ⟨c, r + 1, hc, by simpa using hr, by simpa using hb, by simp only [Prod.mk.injEq, true_and]; omega⟩
    · rintro ⟨c, r, hc, hr, hb, rfl⟩
      cases r with
      | zero => exact .inl ⟨c, mem_eight.mpr hc, by simpa using hb, rfl⟩
      | succ r =>
        exact .inr ⟨c, r, hc, by simpa using hr, by simpa using hb, by simp only [Prod.mk.injEq, true_and]; omega⟩

theorem spritePoints_nodup (x0 py : Nat) (bs : List Byte) : (spritePoints x0 py bs).Nodup := by
  induction bs generalizing py with
  | nil => simp [spritePoints]
  | cons b bs ih =>
    rw [spritePoints, List.nodup_append']
    refine ⟨?_, ih _, ?_⟩
    · refine List.Nodup.map (fun a c h => ?_) (List.Nodup.filter _ (by decide))
      simpa using h
    · intro p hp hq
      obtain ⟨c, -, -, rfl⟩ := mem_rowPoints.mp hp
      obtain ⟨c', r, -, -, -, h⟩ := mem_spritePoints.mp hq
      have := (Prod.mk.injEq _ _ _ _).mp h
      omega

/-- No pixel is visited twice in one draw (R161 (c)). -/
theorem spritePoints_apart (clip : Bool) {x0 py : Nat} {bs : List Byte} (hlen : bs.length ≤ 32) :
    (spritePoints x0 py bs).Pairwise (Apart clip) := by
  refine List.Nodup.pairwise_of_forall_ne (spritePoints_nodup x0 py bs) fun p hp q hq hne x y h1 h2 => hne ?_
  obtain ⟨c, r, hc, hr, -, rfl⟩ := mem_spritePoints.mp hp
  obtain ⟨c', r', hc', hr', -, rfl⟩ := mem_spritePoints.mp hq
  unfold Lands at h1 h2
  cases clip
  · simp only [Bool.false_eq_true, if_false] at h1 h2
    rw [Prod.mk.injEq]; omega
  · simp only [if_true] at h1 h2
    rw [Prod.mk.injEq]; omega

theorem spriteCovers_iff_lands (clip : Bool) (vx vy : Byte) (bs : List Byte) (x y : Nat) :
    spriteCovers clip vx vy bs x y ↔
      ∃ p ∈ spritePoints (vx.toNat % 64) (vy.toNat % 32) bs, Lands clip p x y := by
  constructor
  · rintro ⟨c, r, hc, hr, hb, h⟩
    exact ⟨_, mem_spritePoints.mpr ⟨c, r, hc, hr, hb, rfl⟩, h⟩
  · rintro ⟨p, hp, h⟩
    obtain ⟨c, r, hc, hr, hb, rfl⟩ := mem_spritePoints.mp hp
    exact ⟨c, r, hc, hr, hb, h⟩

/-! ### The whole draw -/

/-- A draw inverts exactly the pixels its sprite covers. -/
theorem FrameBuffer.draw_pixel (f : FrameBuffer) (clip : Bool) (vx vy : Byte) (bs : List Byte) (hlen : bs.length ≤ 32) {x y : Nat}
    (hx : x < 64) (hy : y < 32) :
    ((f.draw clip vx vy bs).fb.pixel x y = true) ↔ ((f.pixel x y = true) ↔ ¬ spriteCovers clip vx vy bs x y) := by
  rw [FrameBuffer.draw, Draw.rows_eq_plots, Draw.plots_pixel clip _ (spritePoints_apart clip hlen) _ hx hy,
    spriteCovers_iff_lands]

/-- A draw collides exactly when its sprite covers a pixel that was set. -/
theorem FrameBuffer.draw_hit (f : FrameBuffer) (clip : Bool) (vx vy : Byte) (bs : List Byte) (hlen : bs.length ≤ 32) :
    (f.draw clip vx vy bs).hit = true ↔
      ∃ x y, x < 64 ∧ y < 32 ∧ f.pixel x y = true ∧ spriteCovers clip vx vy bs x y := by
  rw [FrameBuffer.draw, Draw.rows_eq_plots, Draw.plots_hit clip _ (spritePoints_apart clip hlen)]
  constructor
  · rintro (h | ⟨p, hp, x, y, hx, hy, hl, h⟩)
    · simp at h
    · exact ⟨x, y, hx, hy, h, (spriteCovers_iff_lands ..).mpr ⟨p, hp, hl⟩⟩
  · rintro ⟨x, y, hx, hy, h, hc⟩
    obtain ⟨p, hp, hl⟩ := (spriteCovers_iff_lands ..).mp hc
    exact .inr ⟨p, hp, x, y, hx, hy, hl, h⟩

end Sys2Proof.Machine
end

