-- ==== Sys2Proof/Laws/Step.lean ====
section
/-! SUPPORT. What one step can do: the CPU's step and the machine's step, each inverted once. -/

namespace Sys2Proof.Machine

/-- The CPU's step does nothing unless Ready; when Ready it takes a fetch fault, runs the decoded instruction, or meets an unknown
word. -/
theorem cpuStep_cases (s : State) :
    (s.run ≠ .ready ∧ cpuStep s = .next s) ∨
    (s.run = .ready ∧ s.fetchWord = none ∧ cpuStep s = .next (s.raise .outOfBoundsAccess none)) ∨
    (∃ w i, s.run = .ready ∧ s.fetchWord = some w ∧ decodeWord w = .ok i ∧ cpuStep s = exec i s) ∨
    (∃ w e, s.run = .ready ∧ s.fetchWord = some w ∧ decodeWord w = .error e ∧ cpuStep s = .next (s.unknownWord w)) := by
  unfold cpuStep executeOne
  cases hr : s.run with
  | ready =>
    cases hf : s.fetchWord with
    | none => exact .inr (.inl ⟨rfl, rfl, rfl⟩)
    | some w =>
      cases hd : decodeWord w with
      | ok i => exact .inr (.inr (.inl ⟨w, i, rfl, rfl, hd, by simp [hd]⟩))
      | error e => exact .inr (.inr (.inr ⟨w, e, rfl, rfl, hd, by simp [hd]⟩))
  | awaitKey x => exact .inl ⟨by simp, rfl⟩
  | halted => exact .inl ⟨by simp, rfl⟩

/-- The machine's step is the CPU's step when nothing is scheduled, and else the first scheduled operation. -/
theorem step_cases (s : State) :
    (s.schedule = [] ∧ step s = cpuStep s) ∨
    (∃ op rest, s.schedule = op :: rest ∧ step s = perform op (s.setSchedule rest)) := by
  unfold step
  cases h : s.schedule with
  | nil => exact .inl ⟨rfl, rfl⟩
  | cons op rest => exact .inr ⟨op, rest, rfl, rfl⟩

@[simp] theorem performAll_nil (s : State) : performAll [] s = some s := rfl

theorem performAll_cons_next {op : Operation} {ops : List Operation} {s t : State} (h : perform op s = .next t) :
    performAll (op :: ops) s = performAll ops t := by
  rw [performAll, h]

end Sys2Proof.Machine
end

