-- ==== Sys2Proof/Tests/Slice0.lean ====
section
/-! SUPPORT. Small tests of one step each, with expected results from the spec's own vectors (95_test_vectors.md, cited by table),
and for every statement with hypotheses a witness that meets them. -/

namespace Sys2Proof.Tests

open Sys2Proof.Machine

/-- The state of a test before its own changes: the machine after reset. -/
abbrev start : State := State.reset

/-- The state after one step of the machine with the word placed where it fetches next; the state itself if the step stops. -/
def after (s : State) (w : Nat) : State :=
  match step (s.withFetchWord 16 w) with
  | .next t => t
  | .fault _ => s
  | .refused _ => s

/-- `CFG.JUMP_OFFSET_REG` fixed. -/
def withJump (r : JumpOffsetReg) (s : State) : State := { s with cfg := { s.cfg with jumpOffsetReg := r } }

/-- `CFG.SHIFT_SRC` fixed. -/
def withShift (r : ShiftSrc) (s : State) : State := { s with cfg := { s.cfg with shiftSrc := r } }

/-- `CFG.LOADSTORE_INC_I` fixed. -/
def withInc (b : Bool) (s : State) : State := { s with cfg := { s.cfg with loadStoreIncI := b } }

/-- The state of the vectors T6: the sprite at 0x300, I = 0x300, V1 and V2 its coordinates, clipping as given. -/
def sprite (bytes : List Byte) (clip : Bool) (x y : Byte) : State :=
  let s := (((start.storeBytes 0x300 bytes).setI 0x300).setReg 1 x).setReg 2 y
  { s with cfg := { s.cfg with spriteClip := clip } }

/-! ### Decoding: words written out from the bit patterns of 30_encoding.md R73 and the vectors T1 of 95_test_vectors.md -/

theorem test_decode_cls : decodeTableWord 16 0x00E0 = some (.cls) := by decide
theorem test_decode_ret : decodeTableWord 16 0x00EE = some (.ret) := by decide
theorem test_decode_jp : decodeTableWord 16 0x1ABC = some (.jp 0xABC) := by decide
theorem test_decode_call : decodeTableWord 16 0x2F00 = some (.call 0xF00) := by decide
theorem test_decode_seImm : decodeTableWord 16 0x3A7F = some (.seImm 0xA 0x7F) := by decide
theorem test_decode_sneImm : decodeTableWord 16 0x4005 = some (.sneImm 0 0x05) := by decide
theorem test_decode_seReg : decodeTableWord 16 0x5AB0 = some (.seReg 0xA 0xB) := by decide
theorem test_decode_ldImm : decodeTableWord 16 0x6C42 = some (.ldImm 0xC 0x42) := by decide
theorem test_decode_addImm : decodeTableWord 16 0x7FFF = some (.addImm 0xF 0xFF) := by decide
theorem test_decode_ldReg : decodeTableWord 16 0x8120 = some (.ldReg 1 2) := by decide
theorem test_decode_orReg : decodeTableWord 16 0x8121 = some (.orReg 1 2) := by decide
theorem test_decode_andReg : decodeTableWord 16 0x8122 = some (.andReg 1 2) := by decide
theorem test_decode_xorReg : decodeTableWord 16 0x8123 = some (.xorReg 1 2) := by decide
theorem test_decode_addReg : decodeTableWord 16 0x8AB4 = some (.addReg 0xA 0xB) := by decide
theorem test_decode_sub : decodeTableWord 16 0x8125 = some (.sub 1 2) := by decide
theorem test_decode_shr : decodeTableWord 16 0x8126 = some (.shr 1 2) := by decide
theorem test_decode_subn : decodeTableWord 16 0x8127 = some (.subn 1 2) := by decide
theorem test_decode_shl : decodeTableWord 16 0x8FFE = some (.shl 0xF 0xF) := by decide
theorem test_decode_sneReg : decodeTableWord 16 0x9120 = some (.sneReg 1 2) := by decide
theorem test_decode_ldI : decodeTableWord 16 0xA2F0 = some (.ldI 0x2F0) := by decide
theorem test_decode_jpOff : decodeTableWord 16 0xB2F0 = some (.jpOff 0x2F0) := by decide
theorem test_decode_rnd : decodeTableWord 16 0xC10F = some (.rnd 1 0x0F) := by decide
theorem test_decode_drw : decodeTableWord 16 0xD7A5 = some (.drw 7 0xA 5) := by decide
theorem test_decode_skp : decodeTableWord 16 0xE59E = some (.skp 5) := by decide
theorem test_decode_sknp : decodeTableWord 16 0xE5A1 = some (.sknp 5) := by decide
theorem test_decode_ldVxDt : decodeTableWord 16 0xF907 = some (.ldVxDt 9) := by decide
theorem test_decode_ldVxK : decodeTableWord 16 0xFF0A = some (.ldVxK 0xF) := by decide
theorem test_decode_ldDtVx : decodeTableWord 16 0xF015 = some (.ldDtVx 0) := by decide
theorem test_decode_ldStVx : decodeTableWord 16 0xF118 = some (.ldStVx 1) := by decide
theorem test_decode_addI : decodeTableWord 16 0xF21E = some (.addI 2) := by decide
theorem test_decode_ldF : decodeTableWord 16 0xF329 = some (.ldF 3) := by decide
theorem test_decode_ldB : decodeTableWord 16 0xF433 = some (.ldB 4) := by decide
theorem test_decode_stRegs : decodeTableWord 16 0xFF55 = some (.stRegs 0xF) := by decide
theorem test_decode_ldRegs : decodeTableWord 16 0xF965 = some (.ldRegs 9) := by decide
theorem test_decode_unknown_class0 :
    [0x0000, 0x0123, 0x00E1, 0x00EF, 0x00FE, 0x0EE0].map (decodeTableWord 16) = List.replicate 6 none := by decide
theorem test_decode_unknown_class5_8_9 :
    [0x5001, 0x5ABF, 0x8008, 0x800D, 0x800F, 0x9AB1].map (decodeTableWord 16) = List.replicate 6 none := by decide
theorem test_decode_unknown_classE : [0xE09F, 0xE19D, 0xE000, 0xE0A0].map (decodeTableWord 16) = List.replicate 4 none := by decide
theorem test_decode_unknown_classF :
    [0xF000, 0xF130, 0xF175, 0xF085, 0xF002, 0xF0FF].map (decodeTableWord 16) = List.replicate 6 none := by decide
/-- The source's one example of byte order (95, S1): the byte 0x60 at the lower address is the high byte. -/
theorem test_decode_bytes_are_big_endian : decode [0x60, 0x0A, 0x70] = .ok (.ldImm 0 0x0A, [0x70]) := by decide
theorem test_decode_one_byte_is_truncated : decode [0x60] = .error .truncated := by decide
/-- The encoder on words of T1. -/
theorem test_encode_written_words :
    [encode .cls, encode (.jpOff 0x2F0), encode (.drw 7 0xA 5), encode (.shl 0xF 0xF), encode (.stRegs 0xF)] = [0x00E0, 0xB2F0, 0xD7A5, 0x8FFE, 0xFF55] :=
  by decide

/-! ### Well-formedness: an operand too large for its field (R71) is refused, the largest that fits is not -/

theorem test_reg_16_is_ill_formed : Operand.allFit [⟨.reg, 16⟩] = false ∧ Operand.allFit [⟨.reg, 15⟩] = true := by decide
theorem test_n_16_is_ill_formed :
    Operand.allFit [⟨.reg, 1⟩, ⟨.reg, 2⟩, ⟨.n, 16⟩] = false ∧ Operand.allFit [⟨.reg, 1⟩, ⟨.reg, 2⟩, ⟨.n, 15⟩] = true := by decide
theorem test_nn_256_is_ill_formed :
    Operand.allFit [⟨.reg, 1⟩, ⟨.nn, 256⟩] = false ∧ Operand.allFit [⟨.reg, 1⟩, ⟨.nn, 255⟩] = true := by decide
theorem test_nnn_4096_is_ill_formed : Operand.allFit [⟨.nnn, 4096⟩] = false ∧ Operand.allFit [⟨.nnn, 4095⟩] = true := by decide
theorem test_drw_is_well_formed :
    (Instr.drw 0xF 0xF 0xF).wellFormed = true ∧ (Instr.drw 0xF 0xE 0xD).operands = [⟨.reg, 15⟩, ⟨.reg, 14⟩, ⟨.n, 13⟩] := by decide

/-! ### One step per instruction: the vectors T2 to T7 of 95_test_vectors.md -/

/-- T6. -/
theorem test_cls : let t := after (start.setFb ((FrameBuffer.clear.flip 0 0).flip 63 31)) 0x00E0
    t.fb.pixel 0 0 = false ∧ t.fb.pixel 63 31 = false ∧ t.pc = 0x0202 := by decide
/-- T3. -/
theorem test_ret_pops : let t := after { start with sp := 2, stack := (start.stack.set 0 0x0202).set 1 0x0ABE } 0x00EE
    t.pc = 0x0ABE ∧ t.sp = 1 ∧ t.stack[0] = 0x0202 := by decide
/-- T3. -/
theorem test_ret_underflow :
    (after start 0x00EE).fault = some ⟨.stackUnderflow, 0x0200, some 0x00EE⟩ ∧ (after start 0x00EE).run = .halted := by decide
/-- T3. -/
theorem test_jp : (after start 0x1ABC).pc = 0x0ABC := by decide
/-- T3. -/
theorem test_call_pushes : let t := after { start with sp := 15 } 0x2ABC
    t.stack[15] = 0x0202 ∧ t.sp = 16 ∧ t.pc = 0x0ABC := by decide
/-- T3. -/
theorem test_call_overflow : let t := after { start with sp := 16 } 0x2ABC
    t.fault = some ⟨.stackOverflow, 0x0200, some 0x2ABC⟩ ∧ t.pc = 0x0200 ∧ t.sp = 16 := by decide
/-- T3. -/
theorem test_jpOff_v0 : (after ((withJump .v0 start).setReg 0 0xFF |>.setReg 0xF 0x02) 0xBFFF).pc = 0x10FE := by decide
/-- T3. -/
theorem test_jpOff_vx : (after ((withJump .vx start).setReg 0 0x10 |>.setReg 2 0x04) 0xB2F0).pc = 0x02F4 := by decide
/-- T3. -/
theorem test_seImm :
    (after (start.setReg 1 0x42) 0x3142).pc = 0x0204 ∧ (after (start.setReg 1 0x43) 0x3142).pc = 0x0202 := by decide
/-- T3. -/
theorem test_sneImm :
    (after (start.setReg 1 0x42) 0x4142).pc = 0x0202 ∧ (after (start.setReg 1 0x43) 0x4142).pc = 0x0204 := by decide
/-- T3. -/
theorem test_seReg : let s := (start.setReg 1 9).setReg 2
    (after (s 9) 0x5120).pc = 0x0204 ∧ (after (s 8) 0x5120).pc = 0x0202 := by decide
/-- T3. -/
theorem test_sneReg : let s := (start.setReg 1 9).setReg 2
    (after (s 9) 0x9120).pc = 0x0202 ∧ (after (s 8) 0x9120).pc = 0x0204 := by decide
/-- T4: VF as a plain destination. -/
theorem test_ldImm : (after start 0x6FAB).reg 0xF = 0xAB := by decide
/-- T4: no carry flag. -/
theorem test_addImm : let t := after (start.setReg 0 0xFF) 0x7001
    t.reg 0 = 0x00 ∧ t.reg 0xF = 0x00 := by decide
/-- T4. -/
theorem test_ldReg : (after (start.setReg 1 0x7E) 0x8010).reg 0 = 0x7E := by decide
/-- T4: VF stays. -/
theorem test_orReg : let t := after (((start.setReg 0 0xF0).setReg 1 0x0F).setReg 0xF 1) 0x8011
    t.reg 0 = 0xFF ∧ t.reg 0xF = 1 := by decide
/-- T4: VF stays. -/
theorem test_andReg : let t := after (((start.setReg 0 0xF0).setReg 1 0x3C).setReg 0xF 1) 0x8012
    t.reg 0 = 0x30 ∧ t.reg 0xF = 1 := by decide
/-- T4: VF stays. -/
theorem test_xorReg : let t := after (((start.setReg 0 0xF0).setReg 1 0x3C).setReg 0xF 1) 0x8013
    t.reg 0 = 0xCC ∧ t.reg 0xF = 1 := by decide
/-- S4. -/
theorem test_addReg : let t := after ((start.setReg 0 0xC8).setReg 1 0x64) 0x8014
    t.reg 0 = 0x2C ∧ t.reg 0xF = 0x01 := by decide
/-- T4: the sum 0x12 is lost to the flag. -/
theorem test_addReg_into_vf : (after ((start.setReg 0xF 0x10).setReg 1 0x02) 0x8F14).reg 0xF = 0x00 := by decide
/-- T4. -/
theorem test_sub : let t := after ((start.setReg 0 0x05).setReg 1 0x06) 0x8015
    t.reg 0 = 0xFF ∧ t.reg 0xF = 0x00 := by decide
/-- T4. -/
theorem test_sub_equal : let t := after ((start.setReg 0 0x05).setReg 1 0x05) 0x8015
    t.reg 0 = 0x00 ∧ t.reg 0xF = 0x01 := by decide
/-- T4. -/
theorem test_subn : let t := after ((start.setReg 0 0x05).setReg 1 0x06) 0x8017
    t.reg 0 = 0x01 ∧ t.reg 0xF = 0x01 := by decide
/-- T4. -/
theorem test_subn_borrow : let t := after ((start.setReg 0 0x06).setReg 1 0x05) 0x8017
    t.reg 0 = 0xFF ∧ t.reg 0xF = 0x00 := by decide
/-- T4. -/
theorem test_shr_vx : let t := after (((withShift .vx start).setReg 1 0x05).setReg 2 0x82) 0x8126
    t.reg 1 = 0x02 ∧ t.reg 0xF = 0x01 ∧ t.reg 2 = 0x82 := by decide
/-- T4. -/
theorem test_shr_vy : let t := after (((withShift .vy start).setReg 1 0x05).setReg 2 0x82) 0x8126
    t.reg 1 = 0x41 ∧ t.reg 0xF = 0x00 ∧ t.reg 2 = 0x82 := by decide
/-- T4. -/
theorem test_shl_vx : let t := after (((withShift .vx start).setReg 1 0x05).setReg 2 0x82) 0x812E
    t.reg 1 = 0x0A ∧ t.reg 0xF = 0x00 := by decide
/-- T4. -/
theorem test_shl_vy : let t := after (((withShift .vy start).setReg 1 0x05).setReg 2 0x82) 0x812E
    t.reg 1 = 0x04 ∧ t.reg 0xF = 0x01 := by decide
/-- T4; the drawn byte is free, so the test names it and no value of it. -/
theorem test_rnd_masks_a_draw : (after start 0xC10F).reg 1 = Config.draw8 0 &&& 0x0F ∧ (after start 0xC10F).draws = 1 := ⟨rfl, rfl⟩
/-- T4: NN = 0 forces 0 whatever is drawn. -/
theorem test_rnd_of_mask_zero :
    (after (start.setReg 1 0x55) 0xC100).reg 1 = 0x00 := (BitVec.and_zero : Config.draw8 0 &&& 0#8 = 0#8)
/-- T5. -/
theorem test_ldI : (after start 0xAFFF).i = 0x0FFF := by decide
/-- T5: modulo 65536, VF untouched. -/
theorem test_addI : let t := after ((start.setI 0xFFFF).setReg 1 2) 0xF11E
    t.i = 0x0001 ∧ t.reg 0xF = 0x00 := by decide
/-- T5: old VF added, then the flag. -/
theorem test_addI_sets_vf :
    let s : State := { start with cfg := { start.cfg with fx1eSetsVf := true } }
    (after ((s.setI 0x0FF0).setReg 0xF 0x20) 0xFF1E).i = 0x1010 ∧
    (after ((s.setI 0x0FF0).setReg 0xF 0x20) 0xFF1E).reg 0xF = 0x01 :=
  by decide
/-- T5: the low nibble. -/
theorem test_ldF : (after (start.setReg 1 0x1A) 0xF129).i = 0x0082 := by decide
/-- T5, at the highest legal I. -/
theorem test_ldB : let t := after ((start.setI 0x0FFD).setReg 1 0xC7) 0xF133
    t.load 0xFFD = 1 ∧ t.load 0xFFE = 9 ∧ t.load 0xFFF = 9 := by decide
/-- T5. -/
theorem test_ldB_out_of_bounds : let t := after ((start.setI 0x0FFE).setReg 1 0xFF) 0xF133
    t.fault = some ⟨.outOfBoundsAccess, 0x0200, some 0xF133⟩ ∧ t.load 0xFFE = 0 ∧ t.load 0xFFF = 0 := by decide
/-- T5. -/
theorem test_stRegs : let t := after ((((withInc true start).setI 0x0300).setReg 0 0x11).setReg 2 0x33) 0xF255
    t.load 0x300 = 0x11 ∧ t.load 0x302 = 0x33 ∧ t.load 0x303 = 0 ∧ t.i = 0x0303 := by decide
/-- T5: nothing partial. -/
theorem test_stRegs_out_of_bounds : let t := after ((start.setI 0x0FFF).setReg 0 0x99) 0xF155
    t.fault = some ⟨.outOfBoundsAccess, 0x0200, some 0xF155⟩ ∧ t.load 0xFFF = 0 ∧ t.i = 0x0FFF := by decide
/-- T5. -/
theorem test_ldRegs_of_the_font :
    let t := after ((withInc false start).setI 0x0050) 0xFF65
    t.v = #v[0xF0, 0x90, 0x90, 0x90, 0xF0, 0x20, 0x60, 0x20, 0x20, 0x70, 0xF0, 0x10, 0xF0, 0x80, 0xF0, 0xF0] ∧ t.i = 0x0050 :=
  by decide
/-- T5. -/
theorem test_ldRegs_out_of_bounds : let t := after ((start.setI 0x0FFF).setReg 0 5) 0xF165
    t.fault = some ⟨.outOfBoundsAccess, 0x0200, some 0xF165⟩ ∧ t.reg 0 = 5 := by decide
/-- T6: row 31, columns 60 to 63 and 0 to 3. -/
theorem test_drw_wraps : let t := after (sprite [0xFF] false 60 31) 0xD121
    t.fb.pixel 63 31 = true ∧ t.fb.pixel 0 31 = true ∧ t.fb.pixel 3 31 = true ∧ t.fb.pixel 4 31 = false ∧ t.reg 0xF = 0 := by decide
/-- T6. -/
theorem test_drw_clips : let t := after (sprite [0x80, 0x40] true 0 31) 0xD122
    t.fb.pixel 0 31 = true ∧ t.fb.pixel 1 0 = false ∧ t.reg 0xF = 0 := by decide
/-- T7. -/
theorem test_skp_low_nibble :
    (after ((start.setKey 5 true).setReg 1 0xF5) 0xE19E).pc = 0x0204 ∧ (after (start.setReg 1 0x05) 0xE19E).pc = 0x0202 := by decide
/-- T7. -/
theorem test_sknp : (after ((start.setKey 5 true).setReg 1 0x05) 0xE1A1).pc = 0x0202 ∧ (after start 0xE0A1).pc = 0x0204 := by decide
/-- T7. -/
theorem test_ldVxDt : (after (start.setDt 9) 0xF107).reg 1 = 9 := by decide
/-- T7. -/
theorem test_ldVxK : let t := after (start.setReg 0xF 9) 0xFF0A
    t.run = .awaitKey 0xF ∧ t.pc = 0x0200 ∧ t.reg 0xF = 9 := by decide
/-- T7. -/
theorem test_ldVxK_resumes : let t := (after start 0xF30A).notifyKeyPress 2
    t.run = .ready ∧ t.pc = 0x0202 ∧ t.reg 3 = 2 := by decide
/-- T7. -/
theorem test_ldDtVx : (after (start.setReg 1 0xFF) 0xF115).dt = 0xFF := by decide
/-- T7. -/
theorem test_ldStVx : (after (start.setReg 1 2) 0xF118).st = 2 ∧ (after (start.setReg 1 2) 0xF118).tone = true := by decide

/-! ### Fetch, unknown words, events, reset: the vectors T2, T8, T10 and S2b -/

/-- T2: MEM[4096] does not exist. -/
theorem test_fetch_past_the_end : (after (start.setPc 0x0FFF) 0x6A55).fault = some ⟨.outOfBoundsAccess, 0x0FFF, none⟩ ∧
    (after (start.setPc 0x0FFF) 0x6A55).pc = 0x0FFF := by decide
/-- T2. -/
theorem test_fetch_at_odd_address : let t := after (start.setPc 0x0201) 0x6107
    t.reg 1 = 7 ∧ t.pc = 0x0203 := by decide
/-- T2. -/
theorem test_unknown_halts :
    (after start 0x5121).fault = some ⟨.unknownOpcode, 0x0200, some 0x5121⟩ ∧ (after start 0x5121).pc = 0x0200 := by decide
/-- T2. -/
theorem test_unknown_skips : let t := after { start with cfg := { start.cfg with unknownOpcodePolicy := .skip } } 0x5121
    t.pc = 0x0202 ∧ t.run = .ready ∧ t.fault = none := by decide
/-- T8. -/
theorem test_tick : ({ start with dt := 3, st := 1 } : State).tick.dt = 2 ∧ ({ start with dt := 0, st := 1 } : State).tick.st = 0 ∧
    ({ start with dt := 0, st := 1 } : State).tick.dt = 0 := by decide
/-- T10. -/
theorem test_load_program : let t := (start.loadProgram [0x60, 0x0A]).2
    t.load 0x200 = 0x60 ∧ t.load 0x201 = 0x0A ∧ t.load 0x202 = 0 ∧ t.pc = 0x0200 := by decide
/-- T10. -/
theorem test_reset_memory : [0x04F, 0x050, 0x09F, 0x0A0, 0x200].map State.reset.load = [0x00, 0xF0, 0x80, 0x00, 0x00] := by decide
/-- S2b: digit 0's glyph, drawn at (0, 0). -/
theorem test_glyph_zero :
    let t := after ((start.setI 0x0050).setPc 0x0202) 0xD005
    (List.range 5).map (t.fb.pixel · 0) = [true, true, true, true, false] ∧
    (List.range 5).map (t.fb.pixel · 1) = [true, false, false, true, false] :=
  by decide
/-- R209: one operation a step, the first of the schedule. -/
theorem test_schedule_runs_in_order : (match step { start with schedule := [.setKey 5 true, .tick] } with
    | .next t => decide (t.isPressed 5 = true ∧ t.pc = 0x0200 ∧ t.schedule = [.tick])
    | .fault _ => false
    | .refused _ => false) = true := by decide

/-! ### Witnesses: for each statement with hypotheses, a state and operands that meet them, at the edge of each clause -/

theorem witness_EncodeOfDecodedWord : decodeWord 0x8AB4 = .ok (.addReg 0xA 0xB) := by decide
theorem witness_WordsBelongToTheirRow :
    decodeWord 0xD7A5 = .ok (.drw 7 0xA 5) ∧ (Instr.drw 0 0 0).row.accepts 0xDFFF = true := by decide
theorem witness_UnknownWordsAreTheTables :
    [0x00E1, 0x5001, 0x800F, 0x9AB1, 0xE0A0, 0xF0FF].map (fun w => (decodeWord w).toOption) = List.replicate 6 none := by decide
theorem witness_StepRunsDecodedInstruction :
    let s := start.withFetchWord 16 0x6C42
    s.run = .ready ∧ s.fetchWord = some 0x6C42 ∧ decodeWord 0x6C42 = .ok (.ldImm 0xC 0x42) ∧
    (Instr.ldImm 0xC 0x42).wellFormed = true ∧ s.schedule = [] :=
  by decide
theorem witness_StepRunsDecodedInstruction_scheduled : let s := (start.withFetchWord 16 0x6C42).setSchedule [.step, .tick]
    s.run = .ready ∧ s.fetchWord = some 0x6C42 ∧ s.schedule = .step :: [.tick] := by decide
theorem witness_FetchReadsTwoBytesOrFaults :
    (start.setPc 4094).pc.toNat + 1 ≤ 4095 ∧ 4095 < (start.setPc 4095).pc.toNat + 1 ∧ (start.setPc 4095).run = .ready := by decide
theorem witness_UnknownWordHaltsOrSkips :
    start.run = .ready ∧ start.fetchWord = some 0x0000 ∧ decodeWord 0x0000 = .error .unknownClass0 ∧
    start.cfg.unknownOpcodePolicy = .halt :=
  by decide
theorem witness_UnknownWordHaltsOrSkips_skip :
    let s : State := { start with cfg := { start.cfg with unknownOpcodePolicy := .skip } }
    s.run = .ready ∧ s.fetchWord = some 0x0000 ∧ s.cfg.unknownOpcodePolicy = .skip := by decide
theorem witness_StepIdlesUnlessReady :
    (start.setRun (.awaitKey 3)).run ≠ .ready ∧ (start.raise .stackOverflow none).run ≠ .ready := by decide
theorem witness_ScheduleIsPerformedInOrder : (start.setSchedule [.reset]).schedule = .reset :: [] := rfl
/-- `FX55`: the last two bytes of memory, stored and then fetched. -/
theorem witness_StoreIsSeenByNextFetch : let s := (start.setPc 4092).setI 4094
    s.pc.toNat + 3 ≤ 4095 ∧ s.dataAddr + (1 : Reg).val ≤ 4095 := by decide
/-- `FX33`: its last two digits fall on the last two bytes of memory. -/
theorem witness_StoreIsSeenByNextFetch_digits : let s := (start.setPc 4092).setI 4093
    s.pc.toNat + 3 ≤ 4095 ∧ s.dataAddr + 2 ≤ 4095 := by decide
/-- `load_program`: the largest program, and the last word of memory. -/
theorem witness_StoreIsSeenByNextFetch_load :
    (start.setPc 4094).pc.toNat + 1 ≤ 4095 ∧ (List.replicate 3584 (0 : Byte)).length ≤ 3584 := by
  rw [List.length_replicate]; decide
theorem witness_ReturnPopsTheStack : start.sp.val = 0 ∧ ({ start with sp := 1 } : State).sp.val = (0 : Fin 16).val + 1 ∧
    ({ start with sp := 16 } : State).sp.val = (15 : Fin 16).val + 1 := by decide
theorem witness_CallPushesReturnAddress :
    ({ start with sp := 16 } : State).sp.val = 16 ∧ ({ start with sp := 15 } : State).sp.val < 16 := by decide
theorem witness_CallThenReturnComesBack : ({ start with sp := 15 } : State).sp.val < 16 := by decide
theorem witness_OffsetJumpAddsRegister :
    (2 : Reg).val = (0x2F0 : Imm12).toNat / 256 ∧ (withJump .v0 start).cfg.jumpOffsetReg = .v0 ∧
    (withJump .vx start).cfg.jumpOffsetReg = .vx :=
  by decide
theorem witness_ShiftsSetTheBitOut : (1 : Reg) = (match (withShift .vx start).cfg.shiftSrc with | .vx => 1 | .vy => 2) ∧
    (2 : Reg) = (match (withShift .vy start).cfg.shiftSrc with | .vx => 1 | .vy => 2) := by decide
/-- A bit that is 0 in NN, and a register that is not VX. -/
theorem witness_RandomByteIsMasked : (0x0F : Byte).getLsbD 4 = false ∧ (2 : Reg) ≠ 1 := by decide
theorem witness_DecimalDigitsAreStored : 4095 < (start.setI 4094).dataAddr + 2 ∧ (start.setI 4093).dataAddr + 2 ≤ 4095 := by decide
theorem witness_RegistersAreStored :
    4095 < (start.setI 0x0FF1).dataAddr + (15 : Reg).val ∧ (start.setI 0x0FF0).dataAddr + (15 : Reg).val ≤ 4095 ∧
    (withInc true start).cfg.loadStoreIncI = true := by decide
theorem witness_RegistersAreLoaded :
    4095 < (start.setI 0x1000).dataAddr + (0 : Reg).val ∧ (start.setI 0x0FFF).dataAddr + (0 : Reg).val ≤ 4095 ∧
    (withInc false start).cfg.loadStoreIncI = false := by decide
theorem witness_DrawInvertsCoveredPixels :
    (0 < (15 : Nibble).toNat ∧ 4095 < (start.setI 0x0FF2).dataAddr + (15 : Nibble).toNat - 1) ∧
    (start.setI 0x0FF1).dataAddr + (15 : Nibble).toNat - 1 ≤ 4095 ∧ (0 : Nibble).toNat = 0 := by decide
/-- The last sprite within memory, and N = 0. -/
theorem witness_DrawTwiceRestoresTheDisplay :
    (start.setI 0x0FF1).dataAddr + (15 : Nibble).toNat - 1 ≤ 4095 ∧ (0 : Nibble).toNat = 0 ∧ (1 : Reg) ≠ Reg.vf := by decide
/-- X = Y = F: a draw on an empty display leaves VF at 0, so the second reads the same coordinates. -/
theorem witness_DrawTwiceRestoresTheDisplay_vf : (after (start.setI 0x0050) 0xDFF5).reg 0xF = (start.setI 0x0050).reg 0xF ∧
    (start.setI 0x0050).dataAddr + (5 : Nibble).toNat - 1 ≤ 4095 := by decide
theorem witness_KeySkipsTestTheLevel : (5 : KeyCode).val = ((start.setReg 1 0xF5).reg 1).toNat % 16 := by decide
theorem witness_KeyPressResumesTheWait :
    (start.setRun (.awaitKey 0)).run = .awaitKey 0 ∧ start.run = .ready ∧ (start.raise .stackOverflow none).run = .halted :=
  by decide
theorem witness_WaitOutlastsStepsTicksAndLevels : (start.setRun (.awaitKey 3)).run = .awaitKey 3 ∧
    ∀ op ∈ [Operation.step, .tick, .setKey 2 true], op = .step ∨ op = .tick ∨ ∃ code pressed, op = .setKey code pressed := by
  refine ⟨rfl, ?_⟩
  simp
theorem witness_LoadProgramCopiesOrRefuses :
    3584 < (List.replicate 3585 (0 : Byte)).length ∧ (List.replicate 3584 (0 : Byte)).length ≤ 3584 := by
  rw [List.length_replicate, List.length_replicate]; decide
theorem witness_OutputsShowTimerDisplayAndRun : let t := start.setReg 3 1
    start.st = t.st ∧ start.fb = t.fb ∧ start.run = t.run ∧ start.fault = t.fault := ⟨rfl, rfl, rfl, rfl⟩
/-- The decode fault, at the word 0x0000. -/
theorem witness_FaultsComeOnlyWhereListed : start.run = .ready ∧ cpuStep start = .next (start.raise .unknownOpcode (some 0)) ∧
    (start.raise .unknownOpcode (some 0)).run = .halted := ⟨rfl, rfl, rfl⟩
/-- A fault of the instruction's own. -/
theorem witness_FaultsComeOnlyWhereListed_own :
    cpuStep (start.placeWord 0x00EE) = .next ((start.placeWord 0x00EE).raise .stackUnderflow (some 0x00EE)) ∧
    Instr.ownFault .ret = some .stackUnderflow := ⟨rfl, rfl⟩
/-- The fetch fault. -/
theorem witness_FaultsComeOnlyWhereListed_fetch :
    cpuStep (start.setPc 4095) = .next ((start.setPc 4095).raise .outOfBoundsAccess none) := rfl
/-- An instruction that cannot fault, and an event. -/
theorem witness_FaultsComeOnlyWhereListed_completes :
    Instr.ownFault (.skp 5) = none ∧ start.run ≠ .halted ∧ Operation.tick ≠ .step ∧
    perform .tick start = .next start.tick := ⟨rfl, by decide, by decide, rfl⟩
/-- A reset out of Halted, an event that is no reset, and a program too large. -/
theorem witness_FaultsComeOnlyWhereListed_host :
    Operation.reset ≠ .step ∧ perform .reset (start.raise .stackOverflow none) = .next start ∧
    Operation.tick ≠ .reset ∧ 3584 < (List.replicate 3585 (0 : Byte)).length := by
  refine ⟨by decide, rfl, by decide, ?_⟩
  rw [List.length_replicate]; decide
/-- The word 0x0000, which empty memory holds at 0x200, halts the machine. -/
theorem witness_FaultsArePrecise :
    start.run = .ready ∧ cpuStep start = .next (start.raise .unknownOpcode (some 0)) ∧
    (start.raise .unknownOpcode (some 0)).run = .halted :=
  ⟨rfl, rfl, rfl⟩
theorem witness_RunChangesOnlyAsTheTableSays :
    perform .step (start.placeWord 0xF30A) = .next ((start.placeWord 0xF30A).setRun (.awaitKey 3)) ∧
    ((start.placeWord 0xF30A).setRun (.awaitKey 3)).run ≠ (start.placeWord 0xF30A).run := ⟨rfl, by decide⟩
theorem witness_RunChangesOnlyAsTheTableSays_key : perform (.notifyKeyPress 7) (start.setRun (.awaitKey 0)) =
    .next (((start.setReg 0 7).setPc 0x0202).setRun .ready) ∧ (start.setRun (.awaitKey 0)).run ≠ .ready := ⟨rfl, by decide⟩
theorem witness_RunChangesOnlyAsTheTableSays_halt_reset :
    perform .step start = .next (start.raise .unknownOpcode (some 0)) ∧
    perform .reset (start.raise .unknownOpcode (some 0)) = .next start :=
  ⟨rfl, rfl⟩
theorem witness_HaltedIsAbsorbing : (start.raise .stackOverflow none).run = .halted ∧
    Operation.reset ∉ [Operation.step, .tick, .setKey 1 true, .notifyKeyPress 1, .loadProgram [0x12, 0x00]] := by decide
/-- A form that completes and one that faults. -/
theorem witness_EveryInstructionKeepsItsFrame : exec (.ldStVx 1) start = .next (start.setSt 0).advance ∧
    exec .ret start = .next (start.raise .stackUnderflow (some 0x00EE)) := ⟨rfl, rfl⟩
theorem witness_RegistersChangeOnlyAsDestinationOrFlag : let s := (start.setReg 0 0xFF).setReg 1 1
    exec (.addReg 0 1) s = .next (s.setRegFlag 0 0 1).advance ∧ (s.setRegFlag 0 0 1).advance.reg 0 ≠ s.reg 0 ∧
    Instr.writesFlag s.cfg (.addReg 0 1) = true ∧ (s.setRegFlag 0 0 1).advance.run ≠ .halted := ⟨rfl, by decide, rfl, by decide⟩
theorem witness_DisplayChangesOnlyByClearDrawReset :
    let s := (start.placeWord 0x00E0).setFb (FrameBuffer.clear.flip 0 0)
    perform .step s = .next (s.setFb FrameBuffer.clear).advance ∧
    ∃ x y, (s.setFb FrameBuffer.clear).advance.pixelAt x y ≠ s.pixelAt x y :=
  ⟨rfl, 0, 0, by decide⟩
theorem witness_KeysChangeOnlyBySetKeyAndReset :
    perform (.setKey 5 true) start = .next (start.setKey 5 true) ∧ ∃ k, (start.setKey 5 true).isPressed k ≠ start.isPressed k :=
  ⟨rfl, 5, by decide⟩
theorem witness_MemoryChangesOnlyByStoresLoadReset : perform (.loadProgram [0x60]) start = .next (start.storeBytes 0x200 [0x60]) ∧
    ∃ a, (start.storeBytes 0x200 [0x60]).load a ≠ start.load a := ⟨rfl, 0x200, by decide⟩
theorem witness_StepKeepsTheConfiguration : step start = .next (start.raise .unknownOpcode (some 0)) := rfl
theorem witness_StepKeepsCanonicalMemory :
    start.memCanonical ∧ step start = .next (start.raise .unknownOpcode (some 0)) := ⟨rfl, rfl⟩
/-- The invariant holds where nothing has faulted and where something has. -/
theorem witness_StepKeepsHaltedIffFault :
    start.haltedIffFault ∧ (start.raise .unknownOpcode (some 0)).haltedIffFault :=
  ⟨by simp [State.haltedIffFault, start, State.reset, State.constructed], ⟨fun _ => by decide, fun _ => rfl⟩⟩
/-- At the edges: a wait at 4094, and the return address 4096. -/
theorem witness_StepKeepsPcInRange :
    ({ (start.setPc 4094) with sp := 1, stack := start.stack.set 0 4096, run := .awaitKey 3 } : State).pcInRange := by
  refine ⟨by decide, fun _ _ => by decide, ?_⟩
  unfold State.returnsInRange
  decide

end Sys2Proof.Tests
end

/-! ## The configuration (O56)

The configuration is no part of any update: each operation of the state keeps it, so each instruction, each operation of an agent
and each step of the machine does. -/

namespace Sys2Proof.Machine

/-! ### Outcomes whose next state has a property -/

/-- The next state of an outcome, where it has one, satisfies `P`. -/
def EveryNext (P : State → Prop) (o : Host.Outcome State Fault Refusal) : Prop := ∀ t, o = .next t → P t

@[simp] theorem everyNext_next {P : State → Prop} {t : State} : EveryNext P (.next t) ↔ P t :=
  ⟨fun h => h t rfl, fun h _ ht => Host.Outcome.next.inj ht ▸ h⟩

theorem EveryNext.ite {P : State → Prop} {c : Prop} [Decidable c] {o o' : Host.Outcome State Fault Refusal} (h : EveryNext P o)
    (h' : EveryNext P o') : EveryNext P (if c then o else o') := by
  split
  · exact h
  · exact h'

/-! ### The operations of the state -/

theorem Frame.cfg_eq {ps : List Part} {s t : State} (h : Frame ps s t) (hps : .cfg ∉ ps) : t.cfg = s.cfg := h .cfg hps

@[simp] theorem State.unknownWord_cfg (s : State) (w : Word) : (s.unknownWord w).cfg = s.cfg := by
  obtain ⟨-, h⟩ | ⟨-, h⟩ := s.unknownWord_cases w <;> simp [h]

@[simp] theorem State.notifyKeyPress_cfg (s : State) (k : KeyCode) : (s.notifyKeyPress k).cfg = s.cfg := by
  unfold State.notifyKeyPress
  split <;> rfl

@[simp] theorem State.loadProgram_cfg (s : State) (bytes : List Byte) : (s.loadProgram bytes).2.cfg = s.cfg := by
  unfold State.loadProgram
  split <;> rfl

/-- A reset constructs the machine again under the same configuration (70_reset_and_hazards.md R230). -/
@[simp] theorem State.hostReset_cfg (s : State) : s.hostReset.cfg = s.cfg := rfl

/-! ### The instructions -/

theorem execRet_keeps_cfg (s : State) : EveryNext (fun t => t.cfg = s.cfg) (execRet s) := by
  obtain ⟨-, h⟩ | ⟨a, u, -, h, -, -, -, hu⟩ := s.pop_cases
  · rw [execRet, h]; simp
  · rw [execRet, h]; simp [hu.cfg_eq]

theorem execCall_keeps_cfg (nnn : Imm12) (s : State) : EveryNext (fun t => t.cfg = s.cfg) (execCall nnn s) := by
  obtain ⟨-, h⟩ | ⟨u, -, h, -, -, hu⟩ := s.push_cases (s.pc + 2)
  · rw [execCall, h]; simp
  · rw [execCall, h]; simp [hu.cfg_eq]

theorem execAddI_keeps_cfg (x : Reg) (s : State) : EveryNext (fun t => t.cfg = s.cfg) (execAddI x s) := by
  simp only [execAddI, everyNext_next, State.advance_cfg]
  split <;> rfl

/-- No instruction changes the configuration: RET and CALL go by the cases of the stack, FX1E by its configuration, the four that
check an address by that check; each other instruction answers one state made by updates that keep it. -/
theorem exec_keeps_cfg (i : Instr) (s : State) : EveryNext (fun t => t.cfg = s.cfg) (exec i s) := by
  cases i with
  | ret => exact execRet_keeps_cfg s
  | call nnn => exact execCall_keeps_cfg nnn s
  | addI x => exact execAddI_keeps_cfg x s
  | drw | ldB | stRegs | ldRegs => exact .ite (everyNext_next.mpr rfl) (everyNext_next.mpr rfl)
  | _ => exact everyNext_next.mpr rfl

/-! ### The steps -/

theorem cpuStep_keeps_cfg (s : State) : EveryNext (fun t => t.cfg = s.cfg) (cpuStep s) := by
  obtain ⟨-, h⟩ | ⟨-, -, h⟩ | ⟨w, i, -, -, -, h⟩ | ⟨w, e, -, -, -, h⟩ := cpuStep_cases s <;> rw [h]
  · simp
  · simp
  · exact exec_keeps_cfg i s
  · simp

theorem perform_keeps_cfg (op : Operation) (s : State) : EveryNext (fun t => t.cfg = s.cfg) (perform op s) := by
  cases op with
  | step => exact cpuStep_keeps_cfg s
  | tick | setKey | notifyKeyPress | loadProgram | reset => simp [perform]

theorem step_keeps_cfg (s : State) : EveryNext (fun t => t.cfg = s.cfg) (step s) := by
  obtain ⟨-, h⟩ | ⟨op, rest, -, h⟩ := step_cases s <;> rw [h]
  · exact cpuStep_keeps_cfg s
  · simpa using perform_keeps_cfg op (s.setSchedule rest)

/-- Settles O56: the step is the CPU's step or a scheduled operation, and each keeps the configuration. -/
theorem stepKeepsTheConfiguration : Obligations.StepKeepsTheConfiguration := step_keeps_cfg

end Sys2Proof.Machine

/-! ## The state: what changes RUN, FAULT, PC, the registers, the display and the keys (10_state.md)

One frame per operation of the state gives one frame per instruction; one inversion says how an instruction can leave RUN and
FAULT. The statements about the state's parts are read off these two. -/

namespace Sys2Proof.Machine

section OperationFrames

variable (s : State)

/-! ### Frames of the operations of the state -/

theorem State.setPc_frame (w : Word) : Frame [.pc] s (s.setPc w) := by
  intro p hp
  cases p <;> simp_all [Part.Same]

theorem State.setReg_frame (r : Reg) (b : Byte) : Frame [.v] s (s.setReg r b) := by
  intro p hp
  cases p <;> simp_all [Part.Same]

theorem State.setRegFlag_frame (r : Reg) (b f : Byte) : Frame [.v] s (s.setRegFlag r b f) := by
  intro p hp
  cases p <;> simp_all [Part.Same]

theorem State.setLowRegs_frame (bs : List Byte) : Frame [.v] s (s.setLowRegs bs) := by
  intro p hp
  cases p <;> simp_all [Part.Same]

theorem State.setI_frame (w : Word) : Frame [.i] s (s.setI w) := by
  intro p hp
  cases p <;> simp_all [Part.Same]

theorem State.setDt_frame (b : Byte) : Frame [.dt] s (s.setDt b) := by
  intro p hp
  cases p <;> simp_all [Part.Same]

theorem State.setSt_frame (b : Byte) : Frame [.st] s (s.setSt b) := by
  intro p hp
  cases p <;> simp_all [Part.Same]

theorem State.setFb_frame (f : FrameBuffer) : Frame [.fb] s (s.setFb f) := by
  intro p hp
  cases p <;> simp_all [Part.Same]

theorem State.setRun_frame (r : RunState) : Frame [.run] s (s.setRun r) := by
  intro p hp
  cases p <;> simp_all [Part.Same]

theorem State.storeBytes_frame (a : Nat) (bs : List Byte) : Frame [.mem] s (s.storeBytes a bs) := by
  intro p hp
  cases p <;> simp_all [Part.Same]

theorem State.spendDraw_frame : Frame [.draws] s s.spendDraw := by
  intro p hp
  cases p <;> simp_all [Part.Same]

theorem State.setKey_frame (code : KeyCode) (pressed : Bool) : Frame [.key] s (s.setKey code pressed) := by
  intro p hp
  cases p <;> simp_all [Part.Same]

theorem State.unknownWord_frame (w : Word) : Frame [.pc, .run, .fault] s (s.unknownWord w) := by
  obtain ⟨-, h⟩ | ⟨-, h⟩ := s.unknownWord_cases w <;> rw [h]
  · exact (s.raise_frame _ _).mono (by decide)
  · exact (s.setPc_frame _).mono (by decide)

/-- A key press either completes a pending wait, or is ignored. -/
theorem State.notifyKeyPress_cases (code : KeyCode) :
    (∃ x, s.run = .awaitKey x ∧
      s.notifyKeyPress code = ((s.setReg x (BitVec.ofNat 8 code.val)).setPc (s.pc + 2)).setRun .ready) ∨
    ((∀ x, s.run ≠ .awaitKey x) ∧ s.notifyKeyPress code = s) := by
  unfold State.notifyKeyPress
  cases s.run <;> simp

/-- A program is refused, or its bytes are stored. -/
theorem State.loadProgram_cases (bytes : List Byte) :
    (romMax < bytes.length ∧ s.loadProgram bytes = (.romTooLarge, s)) ∨
    (bytes.length ≤ romMax ∧ s.loadProgram bytes = (.ok, s.storeBytes loadAddr bytes)) := by
  unfold State.loadProgram
  by_cases h : romMax < bytes.length
  · exact .inl ⟨h, if_pos h⟩
  · exact .inr ⟨Nat.le_of_not_lt h, if_neg h⟩

end OperationFrames

/-! ### Frames put together -/

theorem Frame.refl (ps : List Part) (s : State) : Frame ps s s := by
  intro p _
  cases p <;> simp [Part.Same]

/-- One update after another: both lists of parts may change. -/
theorem Frame.append {ps qs : List Part} {s t u : State} (h1 : Frame ps s t) (h2 : Frame qs t u) : Frame (ps ++ qs) s u :=
  (h1.mono fun _ hp => List.mem_append_left qs hp).trans (h2.mono fun _ hq => List.mem_append_right ps hq)

/-- An update, then the advance of PC. -/
theorem Frame.advance {ps : List Part} {s t : State} (h : Frame ps s t) : Frame (.pc :: ps) s t.advance :=
  (h.append (t.setPc_frame _)).mono fun _ hp => by simpa [or_comm] using hp

theorem State.tick_frame (s : State) : Frame [.dt, .st] s s.tick := (s.setDt_frame _).append (State.setSt_frame _ _)

theorem State.notifyKeyPress_frame (s : State) (code : KeyCode) : Frame [.v, .pc, .run] s (s.notifyKeyPress code) := by
  obtain ⟨x, -, h⟩ | ⟨-, h⟩ := s.notifyKeyPress_cases code <;> rw [h]
  · exact ((s.setReg_frame _ _).append (State.setPc_frame _ _)).append (State.setRun_frame _ _)
  · exact .refl _ s

theorem State.loadProgram_frame (s : State) (bytes : List Byte) : Frame [.mem] s (s.loadProgram bytes).2 := by
  obtain ⟨-, h⟩ | ⟨-, h⟩ := s.loadProgram_cases bytes <;> rw [h]
  · exact .refl _ s
  · exact s.storeBytes_frame _ _

/-! ### Frames of the instructions -/

/-- The instructions that can fault may change RUN and FAULT. -/
theorem run_fault_mem_mayChange {i : Instr} (h : i.ownFault ≠ none) (cfg : Config) :
    ∀ p ∈ [Part.run, .fault], p ∈ i.mayChange cfg := by
  cases i with
  | ret | call | drw | ldB => simp [Instr.mayChange]
  | stRegs | ldRegs => simp only [Instr.mayChange]; split <;> decide
  | _ => exact absurd rfl h

theorem State.raise_frame_mayChange (s : State) {i : Instr} (h : i.ownFault ≠ none) (c : Fault) (w : Option Word) :
    Frame (i.mayChange s.cfg) s (s.raise c w) :=
  (s.raise_frame c w).mono (run_fault_mem_mayChange h s.cfg)

theorem execRet_frame (s : State) : EveryNext (Frame (Instr.ret.mayChange s.cfg) s) (execRet s) := by
  obtain ⟨-, h⟩ | ⟨a, u, -, h, -, -, -, hu⟩ := s.pop_cases <;> rw [execRet, h, everyNext_next]
  · exact s.raise_frame_mayChange (by decide) _ _
  · exact (hu.append (u.setPc_frame a)).mono (by simp [Instr.mayChange])

theorem execCall_frame (nnn : Imm12) (s : State) : EveryNext (Frame ((Instr.call nnn).mayChange s.cfg) s) (execCall nnn s) := by
  obtain ⟨-, h⟩ | ⟨u, -, h, -, -, hu⟩ := s.push_cases (s.pc + 2) <;> rw [execCall, h, everyNext_next]
  · exact s.raise_frame_mayChange (by simp [Instr.ownFault]) _ _
  · exact (hu.append (u.setPc_frame _)).mono (by simp [Instr.mayChange])

theorem execAddI_frame (x : Reg) (s : State) : EveryNext (Frame ((Instr.addI x).mayChange s.cfg) s) (execAddI x s) := by
  simp only [execAddI, everyNext_next, Instr.mayChange]
  have hi := s.setI_frame (BitVec.ofNat 16 (s.indexSum x))
  split
  · exact (hi.append (State.setReg_frame _ _ _)).advance
  · exact hi.advance

/-- I after a block of registers changes only under `CFG.LOADSTORE_INC_I`. -/
theorem Frame.indexAfterBlock {ps : List Part} {s t : State} (x : Reg) (h : Frame ps s t) (hi : t.i = s.i) :
    Frame (if s.cfg.loadStoreIncI then ps ++ [.i] else ps) s (t.setI (s.indexAfterBlock x)) := by
  unfold State.indexAfterBlock
  split
  · exact h.append (t.setI_frame _)
  · rw [← hi]; exact h

theorem execStRegs_frame (x : Reg) (s : State) : EveryNext (Frame ((Instr.stRegs x).mayChange s.cfg) s) (execStRegs x s) := by
  have hblock := ((s.storeBytes_frame s.dataAddr (s.lowRegs x)).indexAfterBlock x rfl).advance
  refine .ite (everyNext_next.mpr (hblock.mono ?_)) (everyNext_next.mpr (s.raise_frame_mayChange (by simp [Instr.ownFault]) _ _))
  simp only [Instr.mayChange]
  split <;> decide

theorem execLdRegs_frame (x : Reg) (s : State) : EveryNext (Frame ((Instr.ldRegs x).mayChange s.cfg) s) (execLdRegs x s) := by
  have hblock := ((s.setLowRegs_frame (s.loadBytes s.dataAddr (x.val + 1))).indexAfterBlock x rfl).advance
  refine .ite (everyNext_next.mpr (hblock.mono ?_)) (everyNext_next.mpr (s.raise_frame_mayChange (by simp [Instr.ownFault]) _ _))
  simp only [Instr.mayChange]
  split <;> decide

theorem execDrw_frame (x y : Reg) (n : Nibble) (s : State) :
    EveryNext (Frame ((Instr.drw x y n).mayChange s.cfg) s) (execDrw x y n s) := by
  have hdraw := ((s.setFb_frame (s.drawSprite x y n).fb).append (State.setReg_frame _ Reg.vf (flagByte (s.drawSprite x y n).hit))).advance
  exact .ite (everyNext_next.mpr (hdraw.mono (by simp [Instr.mayChange])))
    (everyNext_next.mpr (s.raise_frame_mayChange (by simp [Instr.ownFault]) _ _))

theorem execLdB_frame (x : Reg) (s : State) : EveryNext (Frame ((Instr.ldB x).mayChange s.cfg) s) (execLdB x s) := by
  have hstore := (s.storeBytes_frame s.dataAddr (decimalDigits (s.reg x))).advance
  exact .ite (everyNext_next.mpr (hstore.mono (by simp [Instr.mayChange])))
    (everyNext_next.mpr (s.raise_frame_mayChange (by simp [Instr.ownFault]) _ _))

/-- Every instruction changes at most the parts listed for it, a fault included: the instructions with branches by their own lemma,
each other one by the frames of its updates. -/
theorem exec_frame (i : Instr) (s : State) : EveryNext (Frame (i.mayChange s.cfg) s) (exec i s) := by
  cases i with
  | ret => exact execRet_frame s
  | call nnn => exact execCall_frame nnn s
  | addI x => exact execAddI_frame x s
  | stRegs x => exact execStRegs_frame x s
  | ldRegs x => exact execLdRegs_frame x s
  | drw x y n => exact execDrw_frame x y n s
  | ldB x => exact execLdB_frame x s
  | cls => exact everyNext_next.mpr (s.setFb_frame _).advance
  | ldVxK x => exact everyNext_next.mpr (s.setRun_frame _)
  | ldDtVx x => exact everyNext_next.mpr (s.setDt_frame _).advance
  | ldStVx x => exact everyNext_next.mpr (s.setSt_frame _).advance
  | ldI | ldF => exact everyNext_next.mpr (s.setI_frame _).advance
  | rnd x nn => exact everyNext_next.mpr ((s.setReg_frame _ _).append (State.spendDraw_frame _)).advance
  | ldImm | addImm | ldReg | orReg | andReg | xorReg | ldVxDt => exact everyNext_next.mpr (s.setReg_frame _ _).advance
  | addReg | sub | shr | subn | shl => exact everyNext_next.mpr (s.setRegFlag_frame _ _ _).advance
  | jp | jpOff | seImm | sneImm | seReg | sneReg | skp | sknp => exact everyNext_next.mpr (s.setPc_frame _)

/-! ### What a step of the CPU does -/

/-- A step of the CPU runs the decoded instruction, or changes at most PC, RUN and FAULT. -/
theorem cpuStep_frame_or_exec (s : State) :
    EveryNext (Frame [.pc, .run, .fault] s) (cpuStep s) ∨
      ∃ w i, s.run = .ready ∧ s.fetchWord = some w ∧ decodeWord w = .ok i ∧ cpuStep s = exec i s := by
  obtain ⟨-, h⟩ | ⟨-, -, h⟩ | hexec | ⟨w, e, -, -, -, h⟩ := cpuStep_cases s
  · exact .inl (h ▸ everyNext_next.mpr (.refl _ s))
  · exact .inl (h ▸ everyNext_next.mpr ((s.raise_frame _ _).mono (by decide)))
  · exact .inr hexec
  · exact .inl (h ▸ everyNext_next.mpr (s.unknownWord_frame w))

/-! ### The frame of an operation -/

/-- The parts that an operation may change, apart from the effect of the instruction that a step runs (60_exceptions.md R205, R207,
R208; 70_reset_and_hazards.md R230, R236). -/
def Operation.mayChange : Operation → List Part
  | .step => [.pc, .run, .fault]
  | .tick => [.dt, .st]
  | .setKey _ _ => [.key]
  | .notifyKeyPress _ => [.v, .pc, .run]
  | .loadProgram _ => [.mem]
  | .reset => [.v, .i, .pc, .stack, .dt, .st, .fb, .key, .mem, .run, .fault]

/-- A reset keeps the configuration, the draws made and the operations scheduled. -/
theorem State.hostReset_frame (s : State) : Frame (Operation.mayChange .reset) s s.hostReset := by
  intro p hp
  cases p with
  | cfg | draws | schedule => rfl
  | _ => simp [Operation.mayChange] at hp

/-- An operation keeps its frame, or is a step that runs the instruction fetched. -/
theorem perform_frame_or_exec {op : Operation} {s t : State} (h : perform op s = .next t) :
    Frame op.mayChange s t ∨
      ∃ w i, op = .step ∧ s.run = .ready ∧ s.fetchWord = some w ∧ decodeWord w = .ok i ∧ exec i s = .next t := by
  cases op with
  | step =>
    obtain hframe | ⟨w, i, hr, hf, hd, he⟩ := cpuStep_frame_or_exec s
    · exact .inl (hframe t h)
    · exact .inr ⟨w, i, rfl, hr, hf, hd, he ▸ h⟩
  | tick => cases h; exact .inl s.tick_frame
  | setKey code pressed => cases h; exact .inl (s.setKey_frame code pressed)
  | notifyKeyPress code => cases h; exact .inl (s.notifyKeyPress_frame code)
  | loadProgram bytes => cases h; exact .inl (s.loadProgram_frame bytes)
  | reset => cases h; exact .inl s.hostReset_frame

/-- A part that an operation has changed is one the operation may change itself, or one that the instruction it ran may change. -/
theorem mem_mayChange_of_perform {op : Operation} {s t : State} {p : Part} (h : perform op s = .next t) (hp : ¬ Part.Same s t p) :
    p ∈ op.mayChange ∨
      ∃ w i, op = .step ∧ s.run = .ready ∧ s.fetchWord = some w ∧ decodeWord w = .ok i ∧ p ∈ i.mayChange s.cfg := by
  obtain hframe | ⟨w, i, hop, hr, hf, hd, he⟩ := perform_frame_or_exec h
  · exact .inl (by_contra fun hmem => hp (hframe p hmem))
  · exact .inr ⟨w, i, hop, hr, hf, hd, by_contra fun hmem => hp (exec_frame i s t he p hmem)⟩

/-! ## RUN and FAULT (O58, O49) -/

/-- The three ways RUN and FAULT can come out of an instruction: kept, a fault taken, a key wait begun by `FX0A`. -/
def LeavesRun (i : Instr) (s t : State) : Prop :=
  (t.run = s.run ∧ t.fault = s.fault) ∨ (∃ c w, t = s.raise c w) ∨ ∃ x, i = .ldVxK x ∧ t = s.setRun (.awaitKey x)

theorem LeavesRun.kept {i : Instr} {s t : State} (hrun : t.run = s.run) (hfault : t.fault = s.fault) : LeavesRun i s t :=
  .inl ⟨hrun, hfault⟩

theorem LeavesRun.raised (i : Instr) (s : State) (c : Fault) (w : Option Word) : LeavesRun i s (s.raise c w) :=
  .inr (.inl ⟨c, w, rfl⟩)

/-- A next state whose frame holds RUN and FAULT. -/
theorem Frame.leavesRun {ps : List Part} {i : Instr} {s t : State} (h : Frame ps s t) (hrun : .run ∉ ps) (hfault : .fault ∉ ps) :
    LeavesRun i s t :=
  .kept (h .run hrun) (h .fault hfault)

theorem exec_leavesRun (i : Instr) (s : State) : EveryNext (LeavesRun i s) (exec i s) := by
  cases i with
  | ret =>
    obtain ⟨-, h⟩ | ⟨a, u, -, h, -, -, -, hu⟩ := s.pop_cases <;> rw [exec, execRet, h, everyNext_next]
    · exact .raised _ s _ _
    · exact (hu.append (u.setPc_frame a)).leavesRun (by decide) (by decide)
  | call nnn =>
    obtain ⟨-, h⟩ | ⟨u, -, h, -, -, hu⟩ := s.push_cases (s.pc + 2) <;> rw [exec, execCall, h, everyNext_next]
    · exact .raised _ s _ _
    · exact (hu.append (u.setPc_frame _)).leavesRun (by decide) (by decide)
  | addI x =>
    intro t ht
    refine (exec_frame (.addI x) s t ht).leavesRun ?_ ?_ <;> simp only [Instr.mayChange] <;> split <;> decide
  | drw | ldB | stRegs | ldRegs =>
    exact .ite (everyNext_next.mpr (.kept rfl rfl)) (everyNext_next.mpr (.raised _ s _ _))
  | ldVxK x => exact everyNext_next.mpr (.inr (.inr ⟨x, rfl, rfl⟩))
  | _ => exact everyNext_next.mpr (.kept rfl rfl)

/-- The three ways RUN and FAULT can come out of a step of the CPU: kept, a fault taken by a Ready machine, a key wait begun by a
fetched `FX0A`. -/
theorem cpuStep_run_cases {s t : State} (h : cpuStep s = .next t) :
    (t.run = s.run ∧ t.fault = s.fault) ∨ (s.run = .ready ∧ ∃ c w, t = s.raise c w) ∨
      ∃ w x, s.run = .ready ∧ s.fetchWord = some w ∧ decodeWord w = .ok (.ldVxK x) ∧ t = s.setRun (.awaitKey x) := by
  obtain ⟨-, hs⟩ | ⟨hr, -, hs⟩ | ⟨w, i, hr, hf, hd, hs⟩ | ⟨w, e, hr, -, -, hs⟩ := cpuStep_cases s <;> rw [hs] at h
  · cases h
    exact .inl ⟨rfl, rfl⟩
  · cases h
    exact .inr (.inl ⟨hr, _, _, rfl⟩)
  · obtain hkept | hfault | ⟨x, rfl, ht⟩ := exec_leavesRun i s t h
    · exact .inl hkept
    · exact .inr (.inl ⟨hr, hfault⟩)
    · exact .inr (.inr ⟨w, x, hr, hf, hd, ht⟩)
  · cases h
    obtain ⟨-, hu⟩ | ⟨-, hu⟩ := s.unknownWord_cases w <;> rw [hu]
    · exact .inr (.inl ⟨hr, _, _, rfl⟩)
    · exact .inl ⟨rfl, rfl⟩

/-- What an operation does to RUN and FAULT: it keeps both, or it is a reset, a key press that ends a wait, a step that faults, or a
step that begins a wait. -/
theorem perform_run_cases {op : Operation} {s t : State} (h : perform op s = .next t) :
    (t.run = s.run ∧ t.fault = s.fault) ∨
    (op = .reset ∧ t = s.hostReset) ∨
    (∃ code x, op = .notifyKeyPress code ∧ s.run = .awaitKey x ∧ t.run = .ready ∧ t.fault = s.fault) ∨
    (op = .step ∧ s.run = .ready ∧ ∃ c w, t = s.raise c w) ∨
    (∃ w x, op = .step ∧ s.run = .ready ∧ s.fetchWord = some w ∧ decodeWord w = .ok (.ldVxK x) ∧ t = s.setRun (.awaitKey x)) := by
  cases op with
  | step =>
    obtain hkept | hfault | ⟨w, x, hwait⟩ := cpuStep_run_cases h
    · exact .inl hkept
    · exact .inr (.inr (.inr (.inl ⟨rfl, hfault⟩)))
    · exact .inr (.inr (.inr (.inr ⟨w, x, rfl, hwait⟩)))
  | tick | setKey => cases h; exact .inl ⟨rfl, rfl⟩
  | notifyKeyPress code =>
    cases h
    obtain ⟨x, hr, ht⟩ | ⟨-, ht⟩ := s.notifyKeyPress_cases code <;> rw [ht]
    · exact .inr (.inr (.inl ⟨code, x, rfl, hr, rfl, rfl⟩))
    · exact .inl ⟨rfl, rfl⟩
  | loadProgram bytes =>
    cases h
    have hf := s.loadProgram_frame bytes
    exact .inl ⟨hf .run (by decide), hf .fault (by decide)⟩
  | reset => cases h; exact .inr (.inl ⟨rfl, rfl⟩)

/-! ### RUN is Halted exactly when FAULT is not none -/

/-- A machine that is not Halted meets the invariant exactly when it has no fault. -/
theorem State.haltedIffFault_iff_of_not_halted {s : State} (h : s.run ≠ .halted) : s.haltedIffFault ↔ s.fault = none := by
  simp [State.haltedIffFault, h]

theorem State.constructed_haltedIffFault (cfg : Config) : (State.constructed cfg).haltedIffFault := by
  simp [State.haltedIffFault, State.constructed]

theorem perform_keeps_haltedIffFault {op : Operation} {s t : State} (hs : s.haltedIffFault) (h : perform op s = .next t) :
    t.haltedIffFault := by
  obtain ⟨hrun, hfault⟩ | ⟨-, rfl⟩ | ⟨code, x, -, hr, hrun, hfault⟩ | ⟨-, -, c, w, rfl⟩ | ⟨w, x, -, hr, -, -, rfl⟩ :=
    perform_run_cases h
  · rwa [State.haltedIffFault, hrun, hfault]
  · exact State.constructed_haltedIffFault s.cfg
  · rw [State.haltedIffFault_iff_of_not_halted (by simp [hr])] at hs
    rwa [State.haltedIffFault_iff_of_not_halted (by simp [hrun]), hfault]
  · simp [State.haltedIffFault]
  · rw [State.haltedIffFault_iff_of_not_halted (by simp [hr])] at hs
    rwa [State.haltedIffFault_iff_of_not_halted (by simp)]

/-- What every operation keeps of `P`, and the schedule has no part in, every step of the machine keeps. -/
theorem step_keeps_of_perform {P : State → Prop} (hperform : ∀ op s t, P s → perform op s = .next t → P t)
    (hschedule : ∀ s ops, P s → P (s.setSchedule ops)) {s t : State} (hs : P s) (h : step s = .next t) : P t := by
  obtain ⟨-, he⟩ | ⟨op, rest, -, he⟩ := step_cases s <;> rw [he] at h
  · exact hperform .step s t hs h
  · exact hperform op _ t (hschedule s rest hs) h

/-- Settles O58: every operation keeps the invariant, and so does taking one off the schedule. -/
theorem stepKeepsHaltedIffFault : Obligations.StepKeepsHaltedIffFault := fun _ _ hs h =>
  step_keeps_of_perform (fun _ _ _ => perform_keeps_haltedIffFault) (fun _ _ => id) hs h

/-- Settles O49: the operations that do not keep RUN are those of the table. -/
theorem runChangesOnlyAsTheTableSays : Obligations.RunChangesOnlyAsTheTableSays := by
  intro op s t h hne
  obtain ⟨hrun, -⟩ | ⟨hop, rfl⟩ | ⟨code, x, hop, hr, hrun, -⟩ | ⟨hop, hr, c, w, rfl⟩ | ⟨w, x, hop, hr, hf, hd, rfl⟩ :=
    perform_run_cases h
  · exact absurd hrun hne
  · exact .inl ⟨hop, rfl⟩
  · exact .inr (.inl ⟨code, x, hop, hr, hrun⟩)
  · exact .inr (.inr (.inl ⟨hop, hr, rfl⟩))
  · exact .inr (.inr (.inr ⟨w, x, hop, hr, hf, hd, rfl⟩))

end Sys2Proof.Machine

/-! ## The range of PC (O59)

A fetch that succeeds shows PC at most 4094 (40_step_cycle.md R91), so an advance or a skip stays below 4098; the furthest jump is
`BNNN` to 0xFFF + 0xFF = 0x10FE, and a return goes to an address that a call pushed, at most 4096 (10_state.md R29). -/

namespace Sys2Proof.Machine

/-! ### Where PC can go -/

theorem State.pc_le_of_fetchWord {s : State} {w : Word} (h : s.fetchWord = some w) : s.pc.toNat ≤ 4094 := by
  obtain ⟨-, hn⟩ | ⟨w, hpc, -, -⟩ := s.fetchWord_cases
  · simp [hn] at h
  · omega

theorem addrOperand_le (nnn : Imm12) : (addrOperand nnn).toNat ≤ 4095 := by
  have := nnn.isLt
  rw [addrOperand_toNat]; omega

theorem State.jumpTarget_le (s : State) (nnn : Imm12) : (s.jumpTarget nnn).toNat ≤ 0x10FE := by
  have hnnn := addrOperand_le nnn
  have hreg := (s.reg (jumpOffsetReg s.cfg nnn)).isLt
  simp only [State.jumpTarget, BitVec.toNat_add, BitVec.toNat_setWidth]
  omega

theorem State.advance_pc_le {s : State} (h : s.pc.toNat ≤ 4094) : s.advance.pc.toNat ≤ 4096 := by
  rw [State.advance_pc]
  bv_omega

theorem State.skipIf_pc_le {s : State} (h : s.pc.toNat ≤ 4094) (c : Bool) : (s.skipIf c).pc.toNat ≤ 4098 := by
  rw [State.skipIf_pc]
  split <;> bv_omega

theorem execRet_pc_le {s : State} (hpc : s.pc.toNat ≤ 4094) (hret : s.returnsInRange) :
    EveryNext (fun t => t.pc.toNat ≤ 0x10FE) (execRet s) := by
  obtain ⟨-, h⟩ | ⟨a, u, hne, h, -, ha, -, -⟩ := s.pop_cases <;> rw [execRet, h, everyNext_next]
  · exact hpc.trans (by decide)
  · have hlt := s.sp.isLt
    have hk : s.sp.val - 1 < 16 := by omega
    have hle := hret ⟨s.sp.val - 1, hk⟩ (by simp only; omega)
    rw [State.setPc_pc, ha ⟨s.sp.val - 1, hk⟩ (by simp only; omega)]
    exact hle.trans (by decide)

theorem execCall_pc_le {s : State} (hpc : s.pc.toNat ≤ 4094) (nnn : Imm12) :
    EveryNext (fun t => t.pc.toNat ≤ 0x10FE) (execCall nnn s) := by
  obtain ⟨-, h⟩ | ⟨u, -, h, -, -, -⟩ := s.push_cases (s.pc + 2) <;> rw [execCall, h, everyNext_next]
  · exact hpc.trans (by decide)
  · exact (addrOperand_le nnn).trans (by decide)

/-- An instruction fetched within memory, with return addresses in range, leaves PC within 0x10FE. -/
theorem exec_pc_le {s : State} (hpc : s.pc.toNat ≤ 4094) (hret : s.returnsInRange) (i : Instr) :
    EveryNext (fun t => t.pc.toNat ≤ 0x10FE) (exec i s) := by
  have hadvance : ∀ {t : State}, t.pc = s.pc → t.advance.pc.toNat ≤ 0x10FE := fun ht =>
    (State.advance_pc_le (ht ▸ hpc)).trans (by decide)
  have hkept : s.pc.toNat ≤ 0x10FE := hpc.trans (by decide)
  cases i with
  | ret => exact execRet_pc_le hpc hret
  | call nnn => exact execCall_pc_le hpc nnn
  | jp nnn => exact everyNext_next.mpr ((addrOperand_le nnn).trans (by decide))
  | jpOff nnn => exact everyNext_next.mpr (s.jumpTarget_le nnn)
  | seImm | sneImm | seReg | sneReg | skp | sknp => exact everyNext_next.mpr ((State.skipIf_pc_le hpc _).trans (by decide))
  | addI x => exact everyNext_next.mpr (hadvance (by split <;> rfl))
  | drw | ldB | stRegs | ldRegs => exact .ite (everyNext_next.mpr (hadvance rfl)) (everyNext_next.mpr hkept)
  | ldVxK => exact everyNext_next.mpr hkept
  | _ => exact everyNext_next.mpr (hadvance rfl)

/-! ### The return addresses in use -/

theorem State.returnsInRange.congr {s t : State} (h : s.returnsInRange) (hst : Part.Same s t .stack) : t.returnsInRange := by
  obtain ⟨hsp, hstack⟩ := hst
  simpa only [State.returnsInRange, hsp, hstack] using h

theorem execRet_keeps_returnsInRange {s : State} (hret : s.returnsInRange) : EveryNext State.returnsInRange (execRet s) := by
  obtain ⟨-, h⟩ | ⟨a, u, -, h, hsp, -, hstack, -⟩ := s.pop_cases <;> rw [execRet, h, everyNext_next]
  · exact hret
  · intro k hk
    simp only [State.setPc_sp, hsp] at hk
    simpa only [State.setPc_stack, hstack] using hret k (by omega)

theorem execCall_keeps_returnsInRange {s : State} (hpc : s.pc.toNat ≤ 4094) (hret : s.returnsInRange) (nnn : Imm12) :
    EveryNext State.returnsInRange (execCall nnn s) := by
  obtain ⟨-, h⟩ | ⟨u, -, h, hsp, hstack, -⟩ := s.push_cases (s.pc + 2) <;> rw [execCall, h, everyNext_next]
  · exact hret
  · intro k hk
    simp only [State.setPc_sp, hsp] at hk
    simp only [State.setPc_stack, hstack k]
    split
    · exact State.advance_pc_le hpc
    · exact hret k (by omega)

/-- Only `00EE` and `2NNN` change the stack (10_state.md R31). -/
theorem stack_mem_mayChange {i : Instr} {cfg : Config} (h : .stack ∈ i.mayChange cfg) : i = .ret ∨ ∃ nnn, i = .call nnn := by
  cases i with
  | ret => exact .inl rfl
  | call nnn => exact .inr ⟨nnn, rfl⟩
  | addI | stRegs | ldRegs => simp only [Instr.mayChange] at h; split at h <;> simp at h
  | _ => simp [Instr.mayChange] at h

theorem exec_keeps_returnsInRange {s : State} (hpc : s.pc.toNat ≤ 4094) (hret : s.returnsInRange) (i : Instr) :
    EveryNext State.returnsInRange (exec i s) := by
  by_cases h : .stack ∈ i.mayChange s.cfg
  · obtain rfl | ⟨nnn, rfl⟩ := stack_mem_mayChange h
    · exact execRet_keeps_returnsInRange hret
    · exact execCall_keeps_returnsInRange hpc hret nnn
  · exact fun t ht => hret.congr (exec_frame i s t ht .stack h)

/-! ### The invariant -/

theorem State.pcInRange.of_not_waiting {s : State} (hpc : s.pc.toNat ≤ 0x10FE) (hret : s.returnsInRange)
    (hrun : ∀ x, s.run ≠ .awaitKey x) : s.pcInRange :=
  ⟨hpc, fun x hx => absurd hx (hrun x), hret⟩

theorem State.pcInRange.congr {s t : State} (h : s.pcInRange) (hpc : t.pc = s.pc) (hrun : t.run = s.run)
    (hst : Part.Same s t .stack) : t.pcInRange := by
  obtain ⟨hle, hwait, hret⟩ := h
  refine ⟨by rwa [hpc], fun x hx => ?_, hret.congr hst⟩
  rw [hpc]
  exact hwait x (hrun ▸ hx)

theorem State.raise_pcInRange {s : State} (h : s.pcInRange) (c : Fault) (w : Option Word) : (s.raise c w).pcInRange := by
  obtain ⟨hle, -, hret⟩ := h
  exact .of_not_waiting hle hret (by simp)

theorem State.constructed_pcInRange (cfg : Config) : (State.constructed cfg).pcInRange :=
  .of_not_waiting (by simp [State.constructed]) (fun k hk => absurd hk (Nat.not_lt_zero _)) (by simp [State.constructed])

/-- A key press that ends a wait moves PC from at most 4094 to at most 4096. -/
theorem State.notifyKeyPress_pcInRange {s : State} (h : s.pcInRange) (code : KeyCode) : (s.notifyKeyPress code).pcInRange := by
  obtain ⟨x, hr, ht⟩ | ⟨-, ht⟩ := s.notifyKeyPress_cases code <;> rw [ht]
  · obtain ⟨-, hwait, hret⟩ := h
    exact .of_not_waiting ((State.advance_pc_le (hwait x hr)).trans (by decide)) hret (by simp)
  · exact h

/-- A wait that `FX0A` begins stays at PC, which the fetch showed to be at most 4094. -/
theorem exec_keeps_pcInRange {s : State} (hr : s.run = .ready) (hpc : s.pc.toNat ≤ 4094) (hret : s.returnsInRange) (i : Instr) :
    EveryNext State.pcInRange (exec i s) := by
  intro t ht
  refine ⟨exec_pc_le hpc hret i t ht, fun x hx => ?_, exec_keeps_returnsInRange hpc hret i t ht⟩
  obtain ⟨hrun, -⟩ | ⟨c, w, rfl⟩ | ⟨y, -, rfl⟩ := exec_leavesRun i s t ht
  · simp [hrun, hr] at hx
  · simp at hx
  · exact hpc

theorem cpuStep_keeps_pcInRange {s : State} (h : s.pcInRange) : EveryNext State.pcInRange (cpuStep s) := by
  obtain ⟨-, hs⟩ | ⟨-, -, hs⟩ | ⟨w, i, hr, hf, -, hs⟩ | ⟨w, e, hr, hf, -, hs⟩ := cpuStep_cases s <;> rw [hs]
  · exact everyNext_next.mpr h
  · exact everyNext_next.mpr (State.raise_pcInRange h _ _)
  · obtain ⟨-, -, hret⟩ := h
    exact exec_keeps_pcInRange hr (State.pc_le_of_fetchWord hf) hret i
  · rw [everyNext_next]
    obtain ⟨-, hu⟩ | ⟨-, hu⟩ := s.unknownWord_cases w <;> rw [hu]
    · exact State.raise_pcInRange h _ _
    · obtain ⟨-, -, hret⟩ := h
      exact .of_not_waiting ((State.advance_pc_le (State.pc_le_of_fetchWord hf)).trans (by decide)) hret (by simp [hr])

theorem perform_keeps_pcInRange (op : Operation) {s : State} (h : s.pcInRange) : EveryNext State.pcInRange (perform op s) := by
  cases op with
  | step => exact cpuStep_keeps_pcInRange h
  | tick | setKey => exact everyNext_next.mpr h
  | notifyKeyPress code => exact everyNext_next.mpr (State.notifyKeyPress_pcInRange h code)
  | loadProgram bytes =>
    have hf := s.loadProgram_frame bytes
    exact everyNext_next.mpr (h.congr (hf .pc (by decide)) (hf .run (by decide)) (hf .stack (by decide)))
  | reset => exact everyNext_next.mpr (State.constructed_pcInRange s.cfg)

/-- Settles O59: every operation keeps the range, and so does taking one off the schedule. -/
theorem stepKeepsPcInRange : Obligations.StepKeepsPcInRange := fun _ _ hs h =>
  step_keeps_of_perform (fun op _ t hs => perform_keeps_pcInRange op hs t) (fun _ _ => id) hs h

end Sys2Proof.Machine

/-! ## Registers, display and keys (O52, O53, O54) -/

namespace Sys2Proof.Machine

/-! ### Registers -/

/-- A register that is neither a destination nor written as the flag is as it was. -/
def KeepsOtherRegs (i : Instr) (s t : State) : Prop :=
  ∀ r, r ∉ i.destination → ¬ (r = Reg.vf ∧ i.writesFlag s.cfg = true) → t.reg r = s.reg r

theorem exec_keepsOtherRegs (i : Instr) (s : State) : EveryNext (KeepsOtherRegs i s) (exec i s) := by
  cases i with
  | ldImm | addImm | ldReg | orReg | andReg | xorReg | ldVxDt | rnd =>
    refine everyNext_next.mpr fun r hr _ => ?_
    simp only [Instr.destination, List.mem_singleton] at hr
    simp [hr]
  | addReg | sub | shr | subn | shl =>
    refine everyNext_next.mpr fun r hr hv => ?_
    simp only [Instr.destination, List.mem_singleton] at hr
    simp only [Instr.writesFlag, and_true] at hv
    simp [hr, hv]
  | drw x y n =>
    refine .ite (everyNext_next.mpr fun r _ hv => ?_) (everyNext_next.mpr fun r _ _ => rfl)
    simp only [Instr.writesFlag, and_true] at hv
    simp [hv]
  | addI x =>
    simp only [exec, execAddI, everyNext_next]
    intro r _ hv
    simp only [Instr.writesFlag] at hv
    split
    · next hcfg => simp [show r ≠ Reg.vf from fun hr => hv ⟨hr, hcfg⟩]
    · rfl
  | ldRegs x =>
    refine .ite (everyNext_next.mpr fun r hr _ => ?_) (everyNext_next.mpr fun r _ _ => rfl)
    simp only [Instr.destination, List.mem_filter, List.mem_finRange, true_and, decide_eq_true_eq, not_le, Fin.lt_def] at hr
    simp [show ¬ r.val < x.val + 1 by omega]
  | stRegs | ldB => exact .ite (everyNext_next.mpr fun r _ _ => rfl) (everyNext_next.mpr fun r _ _ => rfl)
  | ret | call => exact fun t ht r _ _ => exec_frame _ s t ht .v (by simp [Instr.mayChange]) r
  | _ => exact everyNext_next.mpr fun r _ _ => rfl

/-! ### The flag -/

/-- VF is 0 or 1. -/
def State.FlagIsBit (t : State) : Prop := t.reg Reg.vf = 0 ∨ t.reg Reg.vf = 1

theorem State.setReg_flagIsBit (s : State) (c : Bool) : (s.setReg Reg.vf (flagByte c)).FlagIsBit := by
  simpa only [State.FlagIsBit, State.setReg_reg, if_true] using flagByte_zero_or_one c

/-- An instruction that writes the flag leaves VF 0 or 1, unless it faults. -/
theorem exec_flagIsBit {i : Instr} {s : State} (h : i.writesFlag s.cfg = true) :
    EveryNext (fun t => t.run ≠ .halted → t.FlagIsBit) (exec i s) := by
  cases i with
  | addReg | sub | shr | subn | shl => exact everyNext_next.mpr fun _ => State.setReg_flagIsBit _ _
  | drw x y n =>
    exact .ite (everyNext_next.mpr fun _ => State.setReg_flagIsBit _ _) (everyNext_next.mpr fun hrun => absurd rfl hrun)
  | addI x =>
    simp only [Instr.writesFlag] at h
    simp only [exec, execAddI, h, if_true, everyNext_next]
    exact fun _ => State.setReg_flagIsBit _ _
  | _ => exact absurd h Bool.false_ne_true

/-- Settles O52: a register that changed is not among those an instruction keeps, and every flag is the byte of a truth value. -/
theorem registersChangeOnlyAsDestinationOrFlag : Obligations.RegistersChangeOnlyAsDestinationOrFlag := by
  refine fun i s t h => ⟨fun r hne => ?_, fun hflag => exec_flagIsBit hflag t h⟩
  by_contra hr
  obtain ⟨hdest, hflag⟩ := not_or.mp hr
  exact hne (exec_keepsOtherRegs i s t h r hdest hflag)

/-! ### The display and the keys -/

/-- Only `00E0` and `DXYN` change the display (44_display.md R165). -/
theorem fb_mem_mayChange {i : Instr} {cfg : Config} (h : .fb ∈ i.mayChange cfg) : i = .cls ∨ ∃ x y n, i = .drw x y n := by
  cases i with
  | cls => exact .inl rfl
  | drw x y n => exact .inr ⟨x, y, n, rfl⟩
  | addI | stRegs | ldRegs => simp only [Instr.mayChange] at h; split at h <;> simp at h
  | _ => simp [Instr.mayChange] at h

/-- No instruction changes a key's level (10_state.md R37). -/
theorem key_not_mem_mayChange (i : Instr) (cfg : Config) : .key ∉ i.mayChange cfg := by
  cases i with
  | addI | stRegs | ldRegs => simp only [Instr.mayChange]; split <;> decide
  | _ => simp [Instr.mayChange]

/-- Settles O53: reset is the one operation that may change the display itself. -/
theorem displayChangesOnlyByClearDrawReset : Obligations.DisplayChangesOnlyByClearDrawReset := by
  rintro op s t h ⟨x, y, hne⟩
  obtain hop | ⟨w, i, hop, hr, hf, hd, hi⟩ := mem_mayChange_of_perform (p := .fb) h fun hsame => hne (hsame x y)
  · cases op with
    | reset => exact .inl rfl
    | _ => simp [Operation.mayChange] at hop
  · exact .inr ⟨w, i, hop, hr, hf, hd, fb_mem_mayChange hi⟩

/-- Settles O54: set_key and reset are the operations that may change a level themselves. -/
theorem keysChangeOnlyBySetKeyAndReset : Obligations.KeysChangeOnlyBySetKeyAndReset := by
  rintro op s t h ⟨k, hne⟩
  obtain hop | ⟨w, i, -, -, -, -, hi⟩ := mem_mayChange_of_perform (p := .key) h fun hsame => hne (hsame k)
  · cases op with
    | reset => exact .inl rfl
    | setKey code pressed => exact .inr ⟨code, pressed, rfl⟩
    | _ => simp [Operation.mayChange] at hop
  · exact absurd hi (key_not_mem_mayChange i s.cfg)

/-! ## The state after reset (O45, O60) -/

/-- The memory of a new machine lists nothing: it reads as the reset contents (10_state.md R40). -/
theorem State.constructed_load (cfg : Config) (a : Nat) : (State.constructed cfg).load a = Memory.unlisted cfg a := rfl

/-- The font's region holds the font table (10_state.md R41). -/
theorem Memory.unlisted_font (cfg : Config) (j : Fin fontSize) :
    Memory.unlisted cfg (cfg.fontBase.val + j.val) = cfg.fontTable[j.val] := by
  simp [Memory.unlisted]

theorem Memory.unlisted_outside_font (cfg : Config) {a : Nat} (h : a < cfg.fontBase.val ∨ cfg.fontBase.val + 79 < a) :
    Memory.unlisted cfg a = 0 :=
  dif_neg (by simp only [fontSize]; omega)

/-- Every register, stack slot and key of a new machine is a cell of a vector of one repeated value. -/
theorem State.constructed_cells (cfg : Config) :
    (∀ r, (State.constructed cfg).reg r = 0) ∧ (∀ k : Fin 16, (State.constructed cfg).stack[k.val] = 0) ∧
      (∀ k, (State.constructed cfg).isPressed k = false) := by
  simp [State.constructed, State.reg, State.isPressed]

theorem State.constructed_pixelAt (cfg : Config) (x : Fin 64) (y : Fin 32) : (State.constructed cfg).pixelAt x y = false :=
  FrameBuffer.pixel_clear x.val y.val

/-- Settles O45: the font's base in the configuration of reset is 0x050, and its table the font of R42. -/
theorem resetLeavesTheConstructedState : Obligations.ResetLeavesTheConstructedState := by
  obtain ⟨hreg, hstack, hkey⟩ := State.constructed_cells Config.initial
  exact ⟨hreg, rfl, rfl, rfl, hstack, rfl, rfl, State.constructed_pixelAt _, hkey, rfl, rfl,
    Memory.unlisted_font Config.initial, fun _ => Memory.unlisted_outside_font Config.initial⟩

/-- Settles O60: a new machine meets the invariants under every configuration. -/
theorem resetMeetsTheInvariants : Obligations.ResetMeetsTheInvariants :=
  ⟨State.reset_wf, State.constructed_haltedIffFault _, State.constructed_pcInRange _⟩

end Sys2Proof.Machine

/-! ## Memory (20_memory.md: O57, O12, O51, O55)

Memory is written by one operation, `State.storeBytes`. It keeps the canonical form, and every other operation of the state leaves the
list of cells itself alone, so every step keeps the form; what a store leaves at each address is what the next fetch reads. -/

namespace Sys2Proof.Machine

/-! ### The canonical form -/

/-- The canonical form speaks of the configuration and the listed cells alone. -/
theorem State.memCanonical.congr {s t : State} (h : s.memCanonical) (hcfg : t.cfg = s.cfg) (hmem : t.mem = s.mem) :
    t.memCanonical := by
  rwa [State.memCanonical, hcfg, hmem]

theorem State.push_mem {s t : State} {a : Word} (h : s.push a = .ok t) : t.mem = s.mem := by
  unfold State.push at h
  split at h
  · cases h; rfl
  · cases h

theorem State.pop_mem {s t : State} {a : Word} (h : s.pop = .ok (a, t)) : t.mem = s.mem := by
  unfold State.pop at h
  split at h
  · cases h
  · cases h; rfl

theorem execRet_keeps_memCanonical {s : State} (hs : s.memCanonical) : EveryNext State.memCanonical (execRet s) := by
  obtain ⟨-, h⟩ | ⟨a, u, -, h, -, -, -, hu⟩ := s.pop_cases <;> rw [execRet, h, everyNext_next]
  · exact hs
  · exact (hs.congr (hu.cfg_eq (by decide)) (State.pop_mem h) : u.memCanonical)

theorem execCall_keeps_memCanonical {s : State} (hs : s.memCanonical) (nnn : Imm12) :
    EveryNext State.memCanonical (execCall nnn s) := by
  obtain ⟨-, h⟩ | ⟨u, -, h, -, -, hu⟩ := s.push_cases (s.pc + 2) <;> rw [execCall, h, everyNext_next]
  · exact hs
  · exact (hs.congr (hu.cfg_eq (by decide)) (State.push_mem h) : u.memCanonical)

theorem execAddI_keeps_memCanonical {s : State} (hs : s.memCanonical) (x : Reg) :
    EveryNext State.memCanonical (execAddI x s) := by
  simp only [execAddI, everyNext_next]
  split <;> exact hs

/-- Every instruction keeps the canonical form: `FX33` and `FX55` store consecutive bytes or fault, every other one leaves the listed
cells as they are. -/
theorem exec_keeps_memCanonical {s : State} (hs : s.memCanonical) (i : Instr) : EveryNext State.memCanonical (exec i s) := by
  cases i with
  | ldB x =>
    exact .ite (everyNext_next.mpr (State.storeBytes_memCanonical s.dataAddr (decimalDigits (s.reg x)) hs)) (everyNext_next.mpr hs)
  | stRegs x =>
    exact .ite (everyNext_next.mpr (State.storeBytes_memCanonical s.dataAddr (s.lowRegs x) hs)) (everyNext_next.mpr hs)
  | ret => exact execRet_keeps_memCanonical hs
  | call nnn => exact execCall_keeps_memCanonical hs nnn
  | addI x => exact execAddI_keeps_memCanonical hs x
  | drw | ldRegs => exact .ite (everyNext_next.mpr hs) (everyNext_next.mpr hs)
  | _ => exact everyNext_next.mpr hs

theorem cpuStep_keeps_memCanonical {s : State} (hs : s.memCanonical) : EveryNext State.memCanonical (cpuStep s) := by
  obtain ⟨-, h⟩ | ⟨-, -, h⟩ | ⟨w, i, -, -, -, h⟩ | ⟨w, e, -, -, -, h⟩ := cpuStep_cases s <;> rw [h]
  · exact everyNext_next.mpr hs
  · exact everyNext_next.mpr hs
  · exact exec_keeps_memCanonical hs i
  · rw [everyNext_next]
    obtain ⟨-, hu⟩ | ⟨-, hu⟩ := s.unknownWord_cases w <;> rw [hu] <;> exact hs

theorem perform_keeps_memCanonical (op : Operation) {s : State} (hs : s.memCanonical) :
    EveryNext State.memCanonical (perform op s) := by
  cases op with
  | step => exact cpuStep_keeps_memCanonical hs
  | tick | setKey => exact everyNext_next.mpr hs
  | notifyKeyPress code =>
    rw [perform, everyNext_next]
    obtain ⟨x, -, h⟩ | ⟨-, h⟩ := s.notifyKeyPress_cases code <;> rw [h] <;> exact hs
  | loadProgram bytes =>
    rw [perform, everyNext_next]
    obtain ⟨-, h⟩ | ⟨-, h⟩ := s.loadProgram_cases bytes <;> rw [h]
    · exact hs
    · exact State.storeBytes_memCanonical loadAddr bytes hs
  | reset => exact everyNext_next.mpr rfl

/-- Settles O57: every operation keeps the form, and so does taking one off the schedule. -/
theorem stepKeepsCanonicalMemory : Obligations.StepKeepsCanonicalMemory := fun _ _ hs h =>
  step_keeps_of_perform (fun op _ t hs => perform_keeps_memCanonical op hs t) (fun _ _ => id) hs h

/-! ### What an instruction and an operation may change -/

/-- Settles O51: it is the frame of every instruction, put together from the frames of its updates. -/
theorem everyInstructionKeepsItsFrame : Obligations.EveryInstructionKeepsItsFrame := exec_frame

/-- Only `FX33` and `FX55` change memory (20_memory.md R56). -/
theorem mem_mem_mayChange {i : Instr} {cfg : Config} (h : .mem ∈ i.mayChange cfg) : ∃ x, i = .ldB x ∨ i = .stRegs x := by
  cases i with
  | ldB x => exact ⟨x, .inl rfl⟩
  | stRegs x => exact ⟨x, .inr rfl⟩
  | addI | ldRegs => simp only [Instr.mayChange] at h; split at h <;> simp at h
  | _ => simp [Instr.mayChange] at h

/-- Settles O55: load_program and reset are the operations that may change memory themselves. -/
theorem memoryChangesOnlyByStoresLoadReset : Obligations.MemoryChangesOnlyByStoresLoadReset := by
  rintro op s t h ⟨a, hne⟩
  obtain hop | ⟨w, i, hop, hr, hf, hd, hi⟩ := mem_mayChange_of_perform (p := .mem) h fun hsame => hne (hsame a)
  · cases op with
    | reset => exact .inl rfl
    | loadProgram bytes => exact .inr (.inl ⟨bytes, rfl⟩)
    | _ => simp [Operation.mayChange] at hop
  · obtain ⟨x, hx⟩ := mem_mem_mayChange hi
    exact .inr (.inr ⟨w, i, x, hop, hr, hf, hd, hx⟩)

/-! ### The bytes after a store -/

/-- A store that stays in memory leaves its bytes where they were written, and every other byte as it was. -/
theorem State.storeBytes_load_of_fits (s : State) {a : Nat} {bs : List Byte} (h : a + bs.length ≤ 4096) (q : Nat) :
    (s.storeBytes a bs).load q = if a ≤ q ∧ q < a + bs.length then bs.getD (q - a) 0 else s.load q := by
  have hmax : maxAddr = 4095 := rfl
  by_cases hq : a ≤ q ∧ q < a + bs.length
  · rw [State.storeBytes_load, if_pos hq, if_pos (by omega)]
  · rw [s.storeBytes_load_other a q bs hq, if_neg hq]

/-- `FX55` leaves V0 to VX from I upwards, and every other byte as it was (43_index_memory.md R144). -/
theorem State.storeBytes_lowRegs_load {s : State} {x : Reg} (h : s.dataAddr + x.val ≤ 4095) (a : Nat) :
    (s.storeBytes s.dataAddr (s.lowRegs x)).load a = s.afterStoredRegs x a := by
  have hlen := s.lowRegs_length x
  rw [s.storeBytes_load_of_fits (by omega), State.afterStoredRegs]
  by_cases ha : s.dataAddr ≤ a ∧ a ≤ s.dataAddr + x.val
  · have hx := x.isLt
    have hk : (Fin.ofNat 16 (a - s.dataAddr)).val = a - s.dataAddr := Nat.mod_eq_of_lt (by omega)
    have hget := s.lowRegs_getD x (Fin.ofNat 16 (a - s.dataAddr)) (by rw [Fin.le_def]; omega) 0
    rw [if_pos ha, if_pos (by omega), ← hget, hk]
  · rw [if_neg ha, if_neg (by omega)]

theorem decimalDigits_getD_toNat (b : Byte) (k : Nat) :
    ((decimalDigits b).getD k 0).toNat = [b.toNat / 100, b.toNat / 10 % 10, b.toNat % 10].getD k 0 := by
  rw [← decimalDigits_toNat]
  exact (List.getD_map (decimalDigits b) 0 BitVec.toNat).symm

/-- `FX33` leaves hundreds, tens and ones from I upwards, and every other byte as it was (43_index_memory.md R143). -/
theorem State.storeBytes_decimalDigits_load {s : State} (x : Reg) (h : s.dataAddr + 2 ≤ 4095) (a : Nat) :
    ((s.storeBytes s.dataAddr (decimalDigits (s.reg x))).load a).toNat = s.afterStoredDigits x a := by
  have hlen : (decimalDigits (s.reg x)).length = 3 := rfl
  rw [s.storeBytes_load_of_fits (by omega), State.afterStoredDigits]
  by_cases ha : s.dataAddr ≤ a ∧ a ≤ s.dataAddr + 2
  · rw [if_pos (by omega), decimalDigits_getD_toNat]
    obtain rfl | rfl | rfl : a = s.dataAddr ∨ a = s.dataAddr + 1 ∨ a = s.dataAddr + 2 := by omega
    all_goals simp
  · rw [if_neg (by omega), if_neg (by omega), if_neg (by omega), if_neg (by omega)]

/-- `load_program` leaves its bytes from 0x200 upwards, and every other byte as it was (70_reset_and_hazards.md R236). -/
theorem State.storeBytes_program_load (s : State) {bytes : List Byte} (h : bytes.length ≤ 3584) (a : Nat) :
    (s.storeBytes loadAddr bytes).load a = s.afterLoaded bytes a :=
  s.storeBytes_load_of_fits (a := 0x200) (by omega) a

/-! ### The stores that complete -/

theorem exec_stRegs_of_inBounds {s : State} {x : Reg} (h : s.dataAddr + x.val ≤ 4095) :
    exec (.stRegs x) s = .next ((s.storeBytes s.dataAddr (s.lowRegs x)).setI (s.indexAfterBlock x)).advance :=
  if_pos ((inBounds_eq_true _).mpr h)

theorem exec_ldB_of_inBounds {s : State} {x : Reg} (h : s.dataAddr + 2 ≤ 4095) :
    exec (.ldB x) s = .next (s.storeBytes s.dataAddr (decimalDigits (s.reg x))).advance :=
  if_pos ((inBounds_eq_true _).mpr h)

theorem perform_loadProgram_of_fits {bytes : List Byte} (h : bytes.length ≤ 3584) (s : State) :
    perform (.loadProgram bytes) s = .next (s.storeBytes loadAddr bytes) := by
  rw [perform, State.loadProgram, if_neg (Nat.not_lt.mpr h)]

/-! ### The next fetch -/

/-- A fetch with PC + 1 in memory reads the word of the bytes at PC and PC + 1 (40_step_cycle.md R91). -/
theorem State.exists_fetchWord {t : State} (h : t.pc.toNat + 1 ≤ 4095) :
    ∃ w, t.fetchWord = some w ∧ w.toNat = (t.load t.pc.toNat).toNat * 256 + (t.load (t.pc.toNat + 1)).toNat := by
  obtain ⟨hn, -⟩ | ⟨w, -, hw⟩ := t.fetchWord_cases
  · omega
  · exact ⟨w, hw⟩

/-- The fetch after an advance reads the bytes at PC + 2 and PC + 3. -/
theorem State.exists_fetchWord_advance {t : State} (h : t.pc.toNat + 3 ≤ 4095) :
    ∃ w, t.advance.fetchWord = some w ∧
      w.toNat = (t.load (t.pc.toNat + 2)).toNat * 256 + (t.load (t.pc.toNat + 3)).toNat := by
  have hpc : t.advance.pc.toNat = t.pc.toNat + 2 := by rw [State.advance_pc]; bv_omega
  simpa only [hpc, State.advance_load] using State.exists_fetchWord (t := t.advance) (by omega)

/-- Settles O12: the store completes, and the next fetch, at PC + 2 or for a load at PC, reads the bytes it left. -/
theorem storeIsSeenByNextFetch : Obligations.StoreIsSeenByNextFetch := by
  refine ⟨fun x s hpc hx => ?_, fun x s hpc hx => ?_, fun bytes s hpc hlen => ?_⟩
  · obtain ⟨w, hf, hw⟩ := State.exists_fetchWord_advance
      (t := (s.storeBytes s.dataAddr (s.lowRegs x)).setI (s.indexAfterBlock x)) hpc
    refine ⟨_, w, exec_stRegs_of_inBounds hx, hf, ?_⟩
    simpa only [State.setI_pc, State.setI_load, State.storeBytes_pc, State.storeBytes_lowRegs_load hx] using hw
  · obtain ⟨w, hf, hw⟩ := State.exists_fetchWord_advance (t := s.storeBytes s.dataAddr (decimalDigits (s.reg x))) hpc
    refine ⟨_, w, exec_ldB_of_inBounds hx, hf, ?_⟩
    simpa only [State.storeBytes_pc, State.storeBytes_decimalDigits_load x hx] using hw
  · obtain ⟨w, hf, hw⟩ := State.exists_fetchWord (t := s.storeBytes loadAddr bytes) hpc
    refine ⟨_, w, perform_loadProgram_of_fits hlen s, hf, ?_⟩
    simpa only [State.storeBytes_pc, s.storeBytes_program_load hlen] using hw

end Sys2Proof.Machine

/-! ## Decoding and encoding (O1 to O5)

The decoder is characterised once, in both directions. What it answers for a word is right: the instruction's word is that word, or
the word stands in the rejecting class's line of 30_encoding.md R76. And it answers whenever it should: a word that matches an
instruction's row (R73) decodes to that row's instruction with the word's own fields (R71), and a word in a class's line is rejected
by that class. So `decodeWord w = .ok i ↔ encode i = w`, and O2 to O5 are read off. -/

namespace Sys2Proof

/-! ### What the decoder answers is right -/

/-- The line of the table of unknown words that belongs to a class (30_encoding.md R76); no word is too short. -/
def DecodeError.Rejects : DecodeError → Word → Prop
  | .unknownClass0, w => w.toNat / 4096 = 0 ∧ w ≠ 0x00E0 ∧ w ≠ 0x00EE
  | .unknownClass5, w => w.toNat / 4096 = 5 ∧ w.toNat % 16 ≠ 0
  | .unknownClass8, w => w.toNat / 4096 = 8 ∧ w.toNat % 16 ∈ [8, 9, 0xA, 0xB, 0xC, 0xD, 0xF]
  | .unknownClass9, w => w.toNat / 4096 = 9 ∧ w.toNat % 16 ≠ 0
  | .unknownClassE, w => w.toNat / 4096 = 0xE ∧ w.toNat % 256 ∉ [0x9E, 0xA1]
  | .unknownClassF, w =>
    w.toNat / 4096 = 0xF ∧ w.toNat % 256 ∉ [0x07, 0x0A, 0x15, 0x18, 0x1E, 0x29, 0x33, 0x55, 0x65]
  | .truncated, _ => False

/-- An answer of the decoder is right for a word. -/
def RightAnswer (w : Word) : Except DecodeError Instr → Prop
  | .ok i => encode i = w
  | .error e => e.Rejects w

theorem encode_eq_iff (i : Instr) (w : Word) : encode i = w ↔ i.row.pattern.toNat + i.fieldBits.toNat = w.toNat := by
  rw [← BitVec.toNat_inj, encode_toNat]

theorem nField_eq_zero_iff (w : Word) : nField w = 0 ↔ w.toNat % 16 = 0 := by
  rw [← BitVec.toNat_inj, nField_toNat]; rfl

/-! Each branch of the decoder has read the class and the sub-opcode, and the operands are the fields in between: that they make up
the word again is arithmetic on its number. -/

theorem decodeAlu_rightAnswer {w : Word} (hc : w.toNat / 4096 = 8) : RightAnswer w (decodeAlu w) := by
  simp only [decodeAlu, nField_toNat]
  split
  case h_10 => exact ⟨hc, by simp only [imp_false] at *; simp; omega⟩
  all_goals
    simp [RightAnswer, encode_eq_iff, Instr.row, Instr.fieldBits, formatXyn_toNat, xField_val, yField_val]
    omega

theorem decodeKey_rightAnswer {w : Word} (hc : w.toNat / 4096 = 0xE) : RightAnswer w (decodeKey w) := by
  simp only [decodeKey, nnField_toNat]
  split
  case h_3 => exact ⟨hc, by simp_all⟩
  all_goals
    simp [RightAnswer, encode_eq_iff, Instr.row, Instr.fieldBits, formatXnn_toNat, xField_val]
    omega

theorem decodeMisc_rightAnswer {w : Word} (hc : w.toNat / 4096 = 0xF) : RightAnswer w (decodeMisc w) := by
  simp only [decodeMisc, nnField_toNat]
  split
  case h_10 => exact ⟨hc, by simp_all⟩
  all_goals
    simp [RightAnswer, encode_eq_iff, Instr.row, Instr.fieldBits, formatXnn_toNat, xField_val]
    omega

theorem decodeWord_rightAnswer (w : Word) : RightAnswer w (decodeWord w) := by
  have hw := w.isLt
  unfold decodeWord
  simp only [classField_toNat, nField_eq_zero_iff]
  split
  case h_1 hc =>
    split_ifs with hcls hret
    · subst w; rfl
    · subst w; rfl
    · exact ⟨hc, hcls, hret⟩
  case h_9 hc => exact decodeAlu_rightAnswer hc
  case h_15 hc => exact decodeKey_rightAnswer hc
  case h_16 =>
    simp only [imp_false] at *
    exact decodeMisc_rightAnswer (by omega)
  case h_6 hc | h_10 hc =>
    split_ifs with hn
    · simp [RightAnswer, encode_eq_iff, Instr.row, Instr.fieldBits, formatXyn_toNat, xField_val, yField_val]
      omega
    · exact ⟨hc, hn⟩
  all_goals
    simp [RightAnswer, encode_eq_iff, Instr.row, Instr.fieldBits, formatNnn_toNat, formatXnn_toNat, formatXyn_toNat,
      nnnField_toNat, nnField_toNat, nField_toNat, xField_val, yField_val]
    omega

theorem decodeWord_of_rejects {e : DecodeError} {w : Word} (h : e.Rejects w) : decodeWord w = .error e := by
  cases e with
  | unknownClass0 =>
    obtain ⟨hc, hcls, hret⟩ := h
    simp only [decodeWord, classField_toNat, hc, if_neg hcls, if_neg hret]
  | unknownClass5 | unknownClass9 =>
    obtain ⟨hc, hn⟩ := h
    simp only [decodeWord, classField_toNat, hc, nField_eq_zero_iff, if_neg hn]
  | unknownClass8 =>
    obtain ⟨hc, hn⟩ := h
    simp only [decodeWord, classField_toNat, hc, decodeAlu, nField_toNat]
    split <;> simp_all
  | unknownClassE =>
    obtain ⟨hc, hnn⟩ := h
    simp only [decodeWord, classField_toNat, hc, decodeKey, nnField_toNat]
    split <;> simp_all
  | unknownClassF =>
    obtain ⟨hc, hnn⟩ := h
    simp only [decodeWord, classField_toNat, hc, decodeMisc, nnField_toNat]
    split <;> simp_all
  | truncated => exact h.elim

/-! ### A word that matches a row decodes to an instruction of that row -/

/-- The instruction of the same row with the fields of a word as its operands (30_encoding.md R71, R73). -/
def Instr.withFields (w : Word) : Instr → Instr
  | .cls => .cls
  | .ret => .ret
  | .jp _ => .jp (nnnField w)
  | .call _ => .call (nnnField w)
  | .seImm _ _ => .seImm (xField w) (nnField w)
  | .sneImm _ _ => .sneImm (xField w) (nnField w)
  | .seReg _ _ => .seReg (xField w) (yField w)
  | .ldImm _ _ => .ldImm (xField w) (nnField w)
  | .addImm _ _ => .addImm (xField w) (nnField w)
  | .ldReg _ _ => .ldReg (xField w) (yField w)
  | .orReg _ _ => .orReg (xField w) (yField w)
  | .andReg _ _ => .andReg (xField w) (yField w)
  | .xorReg _ _ => .xorReg (xField w) (yField w)
  | .addReg _ _ => .addReg (xField w) (yField w)
  | .sub _ _ => .sub (xField w) (yField w)
  | .shr _ _ => .shr (xField w) (yField w)
  | .subn _ _ => .subn (xField w) (yField w)
  | .shl _ _ => .shl (xField w) (yField w)
  | .sneReg _ _ => .sneReg (xField w) (yField w)
  | .ldI _ => .ldI (nnnField w)
  | .jpOff _ => .jpOff (nnnField w)
  | .rnd _ _ => .rnd (xField w) (nnField w)
  | .drw _ _ _ => .drw (xField w) (yField w) (nField w)
  | .skp _ => .skp (xField w)
  | .sknp _ => .sknp (xField w)
  | .ldVxDt _ => .ldVxDt (xField w)
  | .ldVxK _ => .ldVxK (xField w)
  | .ldDtVx _ => .ldDtVx (xField w)
  | .ldStVx _ => .ldStVx (xField w)
  | .addI _ => .addI (xField w)
  | .ldF _ => .ldF (xField w)
  | .ldB _ => .ldB (xField w)
  | .stRegs _ => .stRegs (xField w)
  | .ldRegs _ => .ldRegs (xField w)

@[simp] theorem Instr.withFields_row (w : Word) (i : Instr) : (i.withFields w).row = i.row := by cases i <;> rfl

/-- The fields of an instruction's word are its operands: digits of the word's number. -/
theorem Instr.withFields_encode (i : Instr) : i.withFields (encode i) = i := by
  cases i
  case cls | ret => rfl
  all_goals
    simp [Instr.withFields, ← BitVec.toNat_inj, Fin.ext_iff, nnnField_toNat, nnField_toNat, nField_toNat, xField_val, yField_val,
      encode_toNat, Instr.row, Instr.fieldBits, formatNnn_toNat, formatXnn_toNat, formatXyn_toNat]
    omega

theorem Row.accepts_iff {r : Row} {w : Word} : r.accepts w = true ↔ w &&& r.mask = r.pattern := decide_eq_true_iff

/-- A field that the row's mask covers has the row's value in every word that the row accepts. -/
theorem Row.field_eq_of_accepts {r : Row} {w : Word} (h : r.accepts w = true) {k n : Nat}
    (hm : r.mask.extractLsb' k n = BitVec.allOnes n) : w.extractLsb' k n = r.pattern.extractLsb' k n := by
  rw [← Row.accepts_iff.mp h, BitVec.extractLsb'_and, hm, BitVec.and_allOnes]

/-- Every row fixes the class. -/
theorem Instr.classField_of_accepts {i : Instr} {w : Word} (h : i.row.accepts w = true) :
    classField w = classField i.row.pattern :=
  Row.field_eq_of_accepts h (by cases i <;> simp only [Instr.row] <;> rfl)

/-- The class, and in the classes with a sub-opcode N or NN, picks the decoder's branch. -/
theorem decodeWord_of_accepts {i : Instr} {w : Word} (h : i.row.accepts w = true) : decodeWord w = .ok (i.withFields w) := by
  have hc := Instr.classField_of_accepts h
  cases i <;> simp only [Instr.row] at h hc
  case cls | ret =>
    rw [Row.accepts_iff] at h
    rw [← BitVec.and_allOnes (x := w), show BitVec.allOnes 16 = 0xFFFF from rfl, h]; rfl
  case seReg | sneReg =>
    have hn : nField w = 0 := Row.field_eq_of_accepts h rfl
    rw [decodeWord, hc]; exact if_pos hn
  case ldReg | orReg | andReg | xorReg | addReg | sub | shr | subn | shl =>
    have hn : nField w = _ := Row.field_eq_of_accepts h rfl
    rw [decodeWord, hc]
    change decodeAlu w = _
    rw [decodeAlu, hn]; rfl
  case skp | sknp =>
    have hn : nnField w = _ := Row.field_eq_of_accepts h rfl
    rw [decodeWord, hc]
    change decodeKey w = _
    rw [decodeKey, hn]; rfl
  case ldVxDt | ldVxK | ldDtVx | ldStVx | addI | ldF | ldB | stRegs | ldRegs =>
    have hn : nnField w = _ := Row.field_eq_of_accepts h rfl
    rw [decodeWord, hc]
    change decodeMisc w = _
    rw [decodeMisc, hn]; rfl
  all_goals rw [decodeWord, hc]; rfl

/-- The word of an instruction matches the instruction's row. -/
theorem row_accepts_encode (i : Instr) : i.row.accepts (encode i) = true := by
  rw [Row.accepts_iff]
  open Laws.EncodingRow in
  cases i
  exacts [cls, ret, jp _, call _, seImm _ _, sneImm _ _, seReg _ _, ldImm _ _, addImm _ _, ldReg _ _, orReg _ _, andReg _ _,
    xorReg _ _, addReg _ _, sub _ _, shr _ _, subn _ _, shl _ _, sneReg _ _, ldI _, jpOff _, rnd _ _, drw _ _ _, skp _, sknp _,
    ldVxDt _, ldVxK _, ldDtVx _, ldStVx _, addI _, ldF _, ldB _, stRegs _, ldRegs _]

/-! ### The decoder, characterised -/

theorem decodeWord_encode (i : Instr) : decodeWord (encode i) = .ok i := by
  rw [decodeWord_of_accepts (row_accepts_encode i), i.withFields_encode]

/-- An answer is the decoder's exactly when it is right for the word. -/
theorem decodeWord_eq_iff {w : Word} {r : Except DecodeError Instr} : decodeWord w = r ↔ RightAnswer w r := by
  constructor
  · rintro rfl; exact decodeWord_rightAnswer w
  · intro h
    cases r with
    | ok i => rw [← show encode i = w from h, decodeWord_encode]
    | error e => exact decodeWord_of_rejects h

theorem decodeWord_eq_ok_iff {w : Word} {i : Instr} : decodeWord w = .ok i ↔ encode i = w := decodeWord_eq_iff

theorem decodeWord_eq_error_iff {w : Word} {e : DecodeError} : decodeWord w = .error e ↔ e.Rejects w := decodeWord_eq_iff

/-! ### The statements -/

/-- Settles O2: the two bytes of a word make that word again, and the word of an instruction decodes to it. -/
theorem decodeOfEncodedBytes : Obligations.DecodeOfEncodedBytes := by
  intro i rest
  simp only [bytesOfWord, List.cons_append, List.nil_append, decode, wordOfBytes_bytesOfWord, decodeWord_encode]

/-- Settles O3. -/
theorem encodeOfDecodedWord : Obligations.EncodeOfDecodedWord := fun _ _ => decodeWord_eq_ok_iff.mp

/-- Settles O4: the word of an instruction matches its row, and a word that matches a row decodes to that row's instruction with the
word's fields. -/
theorem wordsBelongToTheirRow : Obligations.WordsBelongToTheirRow := by
  refine ⟨fun w i h => ?_, fun w i h => ⟨i.withFields w, decodeWord_of_accepts h, i.withFields_row w⟩⟩
  rw [← decodeWord_eq_ok_iff.mp h]
  exact row_accepts_encode i

/-- Settles O5: each clause is the decoder's characterisation at one class. -/
theorem unknownWordsAreTheTables : Obligations.UnknownWordsAreTheTables := fun _ =>
  ⟨decodeWord_eq_error_iff, decodeWord_eq_error_iff, decodeWord_eq_error_iff, decodeWord_eq_error_iff, decodeWord_eq_error_iff,
    decodeWord_eq_error_iff, decodeWord_eq_error_iff.mp⟩

/-- Settles O1: eleven fixed words, evaluated. -/
theorem writtenWordsDecode : Obligations.WrittenWordsDecode := by
  unfold Obligations.WrittenWordsDecode
  decide

end Sys2Proof

/-! ## The step cycle (O6 to O9)

The CPU's step and the machine's step by equations, one for each branch a Ready machine can take (40_step_cycle.md R90 to R94) and
one for each shape of the schedule (60_exceptions.md R209). -/

namespace Sys2Proof.Machine

section StepEquations

variable {s : State}

/-! ### The CPU's step -/

theorem cpuStep_of_not_ready (h : s.run ≠ .ready) : cpuStep s = .next s := by
  cases hrun : s.run with
  | ready => exact absurd hrun h
  | awaitKey x => simp only [cpuStep, hrun]
  | halted => simp only [cpuStep, hrun]

theorem cpuStep_of_ready (h : s.run = .ready) : cpuStep s = executeOne s := by
  simp only [cpuStep, h]

theorem cpuStep_of_fetch_none (hrun : s.run = .ready) (hfetch : s.fetchWord = none) :
    cpuStep s = .next (s.raise .outOfBoundsAccess none) := by
  simp only [cpuStep_of_ready hrun, executeOne, hfetch]

theorem cpuStep_of_decodes {w : Word} {i : Instr} (hrun : s.run = .ready) (hfetch : s.fetchWord = some w)
    (hdecode : decodeWord w = .ok i) : cpuStep s = exec i s := by
  simp only [cpuStep_of_ready hrun, executeOne, hfetch, hdecode]

theorem cpuStep_of_unknown {w : Word} {e : DecodeError} (hrun : s.run = .ready) (hfetch : s.fetchWord = some w)
    (hdecode : decodeWord w = .error e) : cpuStep s = .next (s.unknownWord w) := by
  simp only [cpuStep_of_ready hrun, executeOne, hfetch, hdecode]

/-! ### The machine's step -/

theorem step_of_schedule_nil (h : s.schedule = []) : step s = cpuStep s := by
  simp only [step, h]

theorem step_of_schedule_cons {op : Operation} {rest : List Operation} (h : s.schedule = op :: rest) :
    step s = perform op (s.setSchedule rest) := by
  simp only [step, h]

/-! ### The fetch that faults -/

theorem State.fetchWord_eq_none (h : 4095 < s.pc.toNat + 1) : s.fetchWord = none := by
  obtain ⟨-, hnone⟩ | ⟨w, hpc, -⟩ := s.fetchWord_cases
  · exact hnone
  · omega

end StepEquations

/-- The advance of the fetch sets PC to the next instruction and does nothing else (40_step_cycle.md R92). -/
theorem State.advance_setsPc (s : State) : SetsPc (.next s.advance) s (s.pc + 2) := s.setPc_setsPc (s.pc + 2)

/-! ### The statements -/

/-- Settles O6: the operation taken is the CPU's step in both cases, and taking it off the schedule leaves RUN and the fetched word
as they are. -/
theorem stepRunsDecodedInstruction : Obligations.StepRunsDecodedInstruction := by
  intro s w i hrun hfetch hdecode _
  refine ⟨fun hnil => ?_, fun rest hcons => ?_⟩
  · rw [step_of_schedule_nil hnil, cpuStep_of_decodes hrun hfetch hdecode]
  · rw [step_of_schedule_cons hcons, perform]
    exact cpuStep_of_decodes ((s.setSchedule_run rest).trans hrun) ((s.setSchedule_fetchWord rest).trans hfetch) hdecode

/-- Settles O7: the fetch finds both bytes, or finds no word and the step takes the fault. -/
theorem fetchReadsTwoBytesOrFaults : Obligations.FetchReadsTwoBytesOrFaults := by
  refine fun s => ⟨State.exists_fetchWord, fun hpc hrun => ?_⟩
  rw [cpuStep_of_fetch_none hrun (State.fetchWord_eq_none hpc)]
  exact s.raise_takesFault .outOfBoundsAccess none

/-- Settles O8: the step does what the policy says about the unknown word, and each policy shuts out the other's clause. -/
theorem unknownWordHaltsOrSkips : Obligations.UnknownWordHaltsOrSkips := by
  intro s w e hrun hfetch hdecode
  rw [cpuStep_of_unknown hrun hfetch hdecode]
  obtain ⟨hpolicy, hunknown⟩ | ⟨hpolicy, hunknown⟩ := s.unknownWord_cases w <;> rw [hpolicy, hunknown]
  · exact ⟨fun _ => s.raise_takesFault .unknownOpcode (some w), nofun⟩
  · exact ⟨nofun, fun _ => s.advance_setsPc⟩

/-- Settles O9: an idle run state is AwaitKey or Halted, and the step answers the state itself in both. -/
theorem stepIdlesUnlessReady : Obligations.StepIdlesUnlessReady := fun _ => cpuStep_of_not_ready

end Sys2Proof.Machine

/-! ## Control flow (41_control_flow.md: O13 to O19)

An instruction's word as a number, the control-flow targets as numbers, and one shape for every skip. Call and return go by the cases
of push and pop; that a return comes back after a call is read off the two of them. -/

namespace Sys2Proof

/-! ### The word of an instruction, and no other -/

/-- The decoder answers an instruction for its own word alone, and that word's number is the sum of its fixed bits and its operand
bits. -/
theorem encodes_row_add_fieldBits (i : Instr) : Encodes i (i.row.pattern.toNat + i.fieldBits.toNat) := by
  intro w
  rw [decodeWord_eq_ok_iff, encode_eq_iff, eq_comm]

theorem encodes_of_formatNnn {i : Instr} {nnn : Imm12} (h : i.fieldBits = formatNnn nnn) :
    Encodes i (i.row.pattern.toNat + nnn.toNat) := by
  simpa only [h, formatNnn_toNat] using encodes_row_add_fieldBits i

theorem encodes_of_formatXnn {i : Instr} {x : Reg} {nn : Byte} (h : i.fieldBits = formatXnn x nn) :
    Encodes i (i.row.pattern.toNat + 256 * x.val + nn.toNat) := by
  simpa only [h, formatXnn_toNat, Nat.mul_comm x.val, Nat.add_assoc] using encodes_row_add_fieldBits i

/-- The format XYN with N a sub-opcode, which is among the row's fixed bits. -/
theorem encodes_of_formatXyn_zero {i : Instr} {x y : Reg} (h : i.fieldBits = formatXyn x y 0) :
    Encodes i (i.row.pattern.toNat + 256 * x.val + 16 * y.val) := by
  have hword : (formatXyn x y 0).toNat = x.val * 256 + y.val * 16 := by
    simpa using formatXyn_toNat x y 0
  simpa only [h, hword, Nat.mul_comm x.val, Nat.mul_comm y.val, Nat.add_assoc] using encodes_row_add_fieldBits i

end Sys2Proof

namespace Sys2Proof.Machine

/-! ### Jump targets -/

theorem State.jumpTarget_toNat (s : State) (nnn : Imm12) :
    (s.jumpTarget nnn).toNat = (nnn.toNat + (s.reg (jumpOffsetReg s.cfg nnn)).toNat) % 65536 := by
  rw [State.jumpTarget, BitVec.toNat_add, addrOperand_toNat, BitVec.toNat_setWidth_of_le (by decide)]

/-! ### Skips -/

/-- A skip sets PC by the condition it tests, and nothing else (41_control_flow.md R108). -/
theorem State.skipIf_setsPc (s : State) {c : Bool} {P : Prop} [Decidable P] (h : c = true ↔ P) :
    SetsPc (.next (s.skipIf c)) s (if P then s.pc + 4 else s.pc + 2) := by
  simp only [← h]
  exact s.setPc_setsPc _

/-! ### Call and return -/

theorem exec_ret (s : State) : exec .ret s = execRet s := rfl

theorem exec_call (nnn : Imm12) (s : State) : exec (.call nnn) s = execCall nnn s := rfl

/-- Settles O13: a pop finds the stack empty, or takes the newest entry off, and PC is set to it. -/
theorem returnPopsTheStack : Obligations.ReturnPopsTheStack := by
  intro s
  obtain ⟨hempty, hpop⟩ | ⟨a, u, hne, hpop, hsp, ha, hstack, hframe⟩ := s.pop_cases <;> rw [exec_ret, execRet, hpop]
  · exact ⟨fun _ => s.raise_takesFault _ _, fun k hk => by omega⟩
  · refine ⟨fun hempty => absurd hempty hne, fun k hk => ⟨u.setPc a, rfl, ha k hk.symm, ?_, hstack, ?_⟩⟩
    · rw [State.setPc_sp, hsp]; omega
    · exact (hframe.append (u.setPc_frame a)).mono (by decide)

/-- Settles O15: a push finds the stack full, or adds the next address as one entry, and PC is set to NNN. -/
theorem callPushesReturnAddress : Obligations.CallPushesReturnAddress := by
  intro nnn s
  obtain ⟨hfull, hpush⟩ | ⟨u, hroom, hpush, hsp, hstack, hframe⟩ := s.push_cases (s.pc + 2) <;> rw [exec_call, execCall, hpush]
  · exact ⟨fun _ => s.raise_takesFault _ _, fun hroom => by omega⟩
  · refine ⟨fun hfull => by omega, fun _ => ⟨u.setPc (addrOperand nnn), rfl, addrOperand_toNat nnn, hsp, hstack, ?_⟩⟩
    exact (hframe.append (u.setPc_frame _)).mono (by decide)

/-- Settles O16: the call leaves SP + 1 entries with its return address in slot SP, so the return takes that slot's entry, and the
slots below SP are the ones neither has written. -/
theorem callThenReturnComesBack : Obligations.CallThenReturnComesBack := by
  intro nnn s hroom
  obtain ⟨t, hcall, -, hsp, hstack, hframe⟩ := (callPushesReturnAddress nnn s).2 hroom
  obtain ⟨u, hret, hpc, hdepth, hslots, hframe'⟩ := (returnPopsTheStack t).2 ⟨s.sp.val, hroom⟩ hsp
  refine ⟨t, u, hcall, hret, ?_, Fin.ext hdepth, fun k hk => ?_, hframe.trans hframe'⟩
  · rw [hpc, hstack ⟨s.sp.val, hroom⟩, if_pos rfl]
  · simp only [hslots, hstack k, if_neg hk.ne]

/-! ### Jumps -/

/-- Settles O14: the word is the pattern and NNN, and the only update is PC's. -/
theorem jumpSetsPc : Obligations.JumpSetsPc := fun nnn =>
  ⟨encodes_of_formatNnn rfl, fun s => ⟨s.setPc (addrOperand nnn), rfl, addrOperand_toNat nnn, s.setPc_frame _⟩⟩

/-- Settles O17: the target is NNN plus the configured register, which in the `VX` mode is the one NNN's top nibble names. -/
theorem offsetJumpAddsRegister : Obligations.OffsetJumpAddsRegister := by
  intro nnn x s hx
  have hjumpX : jumpX nnn = x := Fin.ext ((jumpX_val nnn).trans hx.symm)
  refine ⟨s.setPc (s.jumpTarget nnn), rfl, s.setPc_frame _, fun hcfg => ?_, fun hcfg => ?_⟩
  · rw [State.setPc_pc, State.jumpTarget_toNat, jumpOffsetReg, hcfg]
  · rw [State.setPc_pc, State.jumpTarget_toNat, jumpOffsetReg, hcfg, hjumpX]

/-! ### The comparing skips -/

/-- Settles O18: the format XNN, and the skips on equal and on unequal. -/
theorem skipsComparingImmediate : Obligations.SkipsComparingImmediate := fun _ _ =>
  ⟨encodes_of_formatXnn rfl, encodes_of_formatXnn rfl, fun s => ⟨s.skipIf_setsPc beq_iff_eq, s.skipIf_setsPc bne_iff_ne⟩⟩

/-- Settles O19: the format XYN, and the skips on equal and on unequal. -/
theorem skipsComparingRegisters : Obligations.SkipsComparingRegisters := fun _ _ =>
  ⟨encodes_of_formatXyn_zero rfl, encodes_of_formatXyn_zero rfl, fun s =>
    ⟨s.skipIf_setsPc beq_iff_eq, s.skipIf_setsPc bne_iff_ne⟩⟩

end Sys2Proof.Machine

/-! ## Load, arithmetic, logic, shifts, random (42_load_alu.md: O20 to O25)

Each instruction is one register write, with or without a flag after it, and the advance of PC: what is left of each statement is the
value written and the flag, as numbers. -/

namespace Sys2Proof.Machine

/-! ### The difference and the shifts of bytes as numbers -/

/-- The difference of two bytes is taken modulo 256 (42_load_alu.md R131). -/
theorem byte_sub_toNat (a b : Byte) : (a - b).toNat = (a.toNat + 256 - b.toNat) % 256 := by
  have hb := b.isLt
  rw [BitVec.toNat_sub]; omega

theorem byte_shiftRight_one_toNat (b : Byte) : (b >>> 1).toNat = b.toNat / 2 := by
  rw [BitVec.toNat_ushiftRight, Nat.shiftRight_eq_div_pow, Nat.pow_one]

theorem byte_shiftLeft_one_toNat (b : Byte) : (b <<< 1).toNat = b.toNat * 2 % 256 := by
  rw [BitVec.toNat_shiftLeft, Nat.shiftLeft_eq, Nat.pow_one]

/-! ### Writes without a flag -/

/-- Settles O20: the formats XNN and XYN, and one register write each; the sum of two bytes is taken modulo 256. -/
theorem loadsAndImmediateAdd : Obligations.LoadsAndImmediateAdd := fun x y nn =>
  ⟨encodes_of_formatXnn rfl, encodes_of_formatXnn rfl, encodes_of_formatXyn_zero rfl, fun s =>
    ⟨s.setReg_writesReg x nn rfl, s.setReg_writesReg x _ (BitVec.toNat_add _ _), s.setReg_writesReg x (s.reg y) rfl⟩⟩

/-- Settles O21: one register write each, of the bitwise operation on the two numbers. -/
theorem logicLeavesTheFlag : Obligations.LogicLeavesTheFlag := fun x _ s =>
  ⟨s.setReg_writesReg x _ (BitVec.toNat_or _ _), s.setReg_writesReg x _ (BitVec.toNat_and _ _),
    s.setReg_writesReg x _ (BitVec.toNat_xor _ _)⟩

/-! ### Writes with a flag -/

/-- Settles O22: the sum, then the carry. -/
theorem addSetsCarry : Obligations.AddSetsCarry := fun x _ s =>
  s.setRegFlag_writes x _ _ (BitVec.toNat_add _ _) (carryFlag_toNat _ _)

/-- Settles O23: the difference, then NOT borrow, with the operands in the one order and in the other. -/
theorem subtractSetsNotBorrow : Obligations.SubtractSetsNotBorrow := fun x _ s =>
  ⟨s.setRegFlag_writes x _ _ (byte_sub_toNat _ _) (notBorrowFlag_toNat _ _),
    s.setRegFlag_writes x _ _ (byte_sub_toNat _ _) (notBorrowFlag_toNat _ _)⟩

/-- Settles O24: the source that the configuration selects, shifted, then the bit shifted out. -/
theorem shiftsSetTheBitOut : Obligations.ShiftsSetTheBitOut := by
  intro x y src s hsrc
  have hsource : s.shiftSource x y = s.reg src := by
    rw [State.shiftSource, hsrc]
    cases s.cfg.shiftSrc <;> rfl
  rw [← hsource]
  exact ⟨s.setRegFlag_writes x _ _ (byte_shiftRight_one_toNat _) (shiftRightFlag_toNat _),
    s.setRegFlag_writes x _ _ (byte_shiftLeft_one_toNat _) (shiftLeftFlag_toNat _)⟩

/-! ### The random byte -/

/-- Settles O25: a register write, a draw spent and the advance; a bit that is 0 in the mask is 0 in the masked byte. -/
theorem randomByteIsMasked : Obligations.RandomByteIsMasked := by
  intro x nn s
  have hreg : ∀ r, (s.setReg x (s.drawnByte &&& nn)).spendDraw.advance.reg r = if r = x then s.drawnByte &&& nn else s.reg r := by
    simp
  have hx := (hreg x).trans (if_pos rfl)
  refine ⟨_, rfl, hx, fun r hr => (hreg r).trans (if_neg hr), fun k hk => ?_, rfl, rfl, ?_⟩
  · rw [hx, BitVec.getLsbD_and, hk, Bool.and_false]
  · exact (((s.setReg_frame x _).append (State.spendDraw_frame _)).advance).mono (by decide)

end Sys2Proof.Machine

/-! ## Index register and memory (43_index_memory.md: O26 to O31)

What I, a register and a byte of memory hold after each update is one lemma each. An instruction that accesses memory checks its last
address once, before it writes anything: one lemma gives the fault of all three, and each statement is then the block written, or
read, and the frame of its updates. -/

namespace Sys2Proof.Machine

/-! ### The index register -/

/-- I after a block is advanced by X + 1 modulo 65536 when the configuration says so (43_index_memory.md R144, R145). -/
theorem State.indexAfterBlock_toNat (s : State) (x : Reg) :
    (s.indexAfterBlock x).toNat = if s.cfg.loadStoreIncI = true then (s.i.toNat + x.val + 1) % 65536 else s.i.toNat := by
  unfold State.indexAfterBlock
  split
  · rw [BitVec.toNat_add, BitVec.toNat_ofNat, Nat.add_mod_mod, Nat.add_assoc]
  · rfl

/-- Settles O26: the word is the pattern and NNN, and the updates are I's and the advance. -/
theorem loadIndexImmediate : Obligations.LoadIndexImmediate := fun nnn =>
  ⟨encodes_of_formatNnn rfl, fun s =>
    ⟨_, rfl, addrOperand_toNat nnn, rfl, (s.setI_frame (addrOperand nnn)).advance.mono (by decide)⟩⟩

/-- `FX1E` under `CFG.FX1E_SETS_VF`. -/
theorem exec_addI_of_fx1eSetsVf {s : State} (x : Reg) (h : s.cfg.fx1eSetsVf = true) :
    exec (.addI x) s =
      .next ((s.setI (BitVec.ofNat 16 (s.indexSum x))).setReg Reg.vf (indexOverflowFlag (s.indexSum x))).advance := by
  simp only [exec, execAddI, if_pos h]

theorem exec_addI_of_not_fx1eSetsVf {s : State} (x : Reg) (h : ¬ s.cfg.fx1eSetsVf = true) :
    exec (.addI x) s = .next (s.setI (BitVec.ofNat 16 (s.indexSum x))).advance := by
  simp only [exec, execAddI, if_neg h]

/-- Settles O27: the sum goes to I; with the quirk a write of VF follows, without it no register is written. -/
theorem addToIndexAndConfiguredFlag : Obligations.AddToIndexAndConfiguredFlag := by
  intro x s
  have hi := s.setI_frame (BitVec.ofNat 16 (s.indexSum x))
  by_cases hquirk : s.cfg.fx1eSetsVf = true
  · refine ⟨_, exec_addI_of_fx1eSetsVf x hquirk, BitVec.toNat_ofNat _ _, rfl, ?_, fun r hr => ?_, ?_⟩
    · exact (hi.append (State.setReg_frame _ _ _)).advance.mono (by decide)
    · rw [State.advance_reg, State.setReg_reg, if_neg hr, State.setI_reg]
    · rw [if_pos hquirk, State.advance_reg, State.setReg_reg, if_pos rfl, indexOverflowFlag_toNat, State.indexSum]
  · refine ⟨_, exec_addI_of_not_fx1eSetsVf x hquirk, BitVec.toNat_ofNat _ _, rfl, ?_, fun _ _ => rfl, ?_⟩
    · exact hi.advance.mono (by decide)
    · rw [if_neg hquirk, State.advance_reg, State.setI_reg]

/-- Settles O28: the glyph's address, of the digit that is the low nibble of VX, goes to I. -/
theorem glyphAddressOfDigit : Obligations.GlyphAddressOfDigit := by
  intro x s
  refine ⟨_, rfl, ?_, rfl, (s.setI_frame _).advance.mono (by decide)⟩
  rw [State.advance_i, State.setI_i, glyphAddr_toNat, lowNibble_val]

/-! ### The checked accesses -/

/-- An instruction that checks its last address first takes the fault, whatever it would have done, when that address does not exist
(20_memory.md R55, R65). -/
theorem takesFault_of_last_outOfBounds (s : State) {last : Nat} (h : 4095 < last) (o : Host.Outcome State Fault Refusal)
    (w : Option Word) :
    TakesFault (if inBounds last then o else .next (s.raise .outOfBoundsAccess w)) s .outOfBoundsAccess w := by
  rw [if_neg (by rw [inBounds_eq_true]; omega)]
  exact s.raise_takesFault _ _

theorem exec_ldRegs_of_inBounds {s : State} {x : Reg} (h : s.dataAddr + x.val ≤ 4095) :
    exec (.ldRegs x) s =
      .next ((s.setLowRegs (s.loadBytes s.dataAddr (x.val + 1))).setI (s.indexAfterBlock x)).advance :=
  if_pos ((inBounds_eq_true _).mpr h)

/-! ### The decimal digits -/

/-- Settles O29: the three bytes of the store are the digits, and no other byte is among them. -/
theorem decimalDigitsAreStored : Obligations.DecimalDigitsAreStored := by
  intro x s
  refine ⟨fun h => takesFault_of_last_outOfBounds s h _ _, fun h => ?_⟩
  have hload := State.storeBytes_decimalDigits_load x h
  refine ⟨_, exec_ldB_of_inBounds h, ?_, ?_, ?_, fun a ha => ?_, rfl, ?_⟩
  · exact (hload _).trans (by simp [State.afterStoredDigits])
  · exact (hload _).trans (by simp [State.afterStoredDigits])
  · exact (hload _).trans (by simp [State.afterStoredDigits])
  · exact s.storeBytes_load_other _ a _ ha
  · exact (s.storeBytes_frame _ _).advance.mono (by decide)

/-! ### Blocks of registers -/

theorem State.afterStoredRegs_of_le (s : State) {x k : Reg} (h : k ≤ x) : s.afterStoredRegs x (s.dataAddr + k.val) = s.reg k := by
  have hk : k.val ≤ x.val := h
  rw [State.afterStoredRegs, if_pos (by omega), Nat.add_sub_cancel_left, Fin.ofNat_val_eq_self]

/-- V0 to VX are the bytes read, in order; a register above VX keeps its value (43_index_memory.md R145). -/
theorem State.setLowRegs_loadBytes_reg (s : State) (a : Nat) (x k : Reg) :
    (s.setLowRegs (s.loadBytes a (x.val + 1))).reg k = if k ≤ x then s.load (a + k.val) else s.reg k := by
  simp only [State.setLowRegs_reg, State.loadBytes_getD, Nat.lt_succ_iff, Fin.le_def]

/-- Settles O30: the store leaves V0 to VX from I upwards and no other byte changed, and I is advanced by the configuration. -/
theorem registersAreStored : Obligations.RegistersAreStored := by
  intro x s
  refine ⟨fun h => takesFault_of_last_outOfBounds s h _ _, fun h =>
    ⟨_, exec_stRegs_of_inBounds h, fun k hk => ?_, fun a ha => ?_, s.indexAfterBlock_toNat x, rfl, ?_⟩⟩
  · exact (State.storeBytes_lowRegs_load h _).trans (s.afterStoredRegs_of_le hk)
  · exact s.storeBytes_load_other _ a _ (by rwa [s.lowRegs_length])
  · exact ((s.storeBytes_frame _ _).append (State.setI_frame _ _)).advance.mono (by decide)

/-- Settles O31: the bytes from I upwards go to V0 to VX and to no other register, and I is advanced by the configuration. -/
theorem registersAreLoaded : Obligations.RegistersAreLoaded := by
  intro x s
  refine ⟨fun h => takesFault_of_last_outOfBounds s h _ _, fun h =>
    ⟨_, exec_ldRegs_of_inBounds h, s.setLowRegs_loadBytes_reg s.dataAddr x, s.indexAfterBlock_toNat x, rfl, ?_⟩⟩
  exact ((s.setLowRegs_frame _).append (State.setI_frame _ _)).advance.mono (by decide)

end Sys2Proof.Machine

/-! ## Display (44_display.md: O32 to O34)

What a draw does to a pixel and when it collides is `Laws/Display`; here both are read at a state, with the bytes at I as the sprite.
That a second draw undoes the first needs no more of the loop over rows and columns: each draw inverts the pixels that its sprite
covers, and the second covers the same pixels. -/

namespace Sys2Proof.Machine

/-! ### The clear -/

/-- Settles O32: the word has no operand bits, and the updates are the empty display and the advance. -/
theorem clearEmptiesTheDisplay : Obligations.ClearEmptiesTheDisplay :=
  ⟨encodes_row_add_fieldBits .cls, fun s =>
    ⟨_, rfl, fun x y => FrameBuffer.pixel_clear x.val y.val, rfl, (s.setFb_frame _).advance.mono (by decide)⟩⟩

/-! ### The draw of a state -/

theorem flagByte_eq_one (c : Bool) : flagByte c = 1 ↔ c = true := by cases c <;> simp [flagByte]

/-- A sprite has at most 15 rows, so its rows do not wrap onto one another (44_display.md R161 (c)). -/
theorem State.spriteBytes_length_le (s : State) (n : Nibble) : (s.spriteBytes n).length ≤ 32 := by
  have hn := n.isLt
  rw [State.spriteBytes, State.loadBytes_length]
  omega

theorem State.drawSprite_pixel (s : State) (x y : Reg) (n : Nibble) (px : Fin 64) (py : Fin 32) :
    (s.drawSprite x y n).fb.pixel px.val py.val = true ↔ (s.pixelAt px py = true ↔
      ¬ spriteCovers s.cfg.spriteClip (s.reg x) (s.reg y) (s.spriteBytes n) px.val py.val) :=
  FrameBuffer.draw_pixel _ _ _ _ _ (s.spriteBytes_length_le n) px.isLt py.isLt

theorem State.drawSprite_hit (s : State) (x y : Reg) (n : Nibble) :
    (s.drawSprite x y n).hit = true ↔ ∃ px py, s.pixelAt px py = true ∧
      spriteCovers s.cfg.spriteClip (s.reg x) (s.reg y) (s.spriteBytes n) px.val py.val := by
  refine (FrameBuffer.draw_hit _ _ _ _ _ (s.spriteBytes_length_le n)).trans ⟨?_, ?_⟩
  · rintro ⟨px, py, hx, hy, hset, hcovered⟩
    exact ⟨⟨px, hx⟩, ⟨py, hy⟩, hset, hcovered⟩
  · rintro ⟨px, py, hset, hcovered⟩
    exact ⟨px.val, py.val, px.isLt, py.isLt, hset, hcovered⟩

/-- A state with the same I and the same memory has the same sprite. -/
theorem Frame.spriteBytes_eq {ps : List Part} {s t : State} (h : Frame ps s t) (hi : .i ∉ ps) (hmem : .mem ∉ ps) (n : Nibble) :
    t.spriteBytes n = s.spriteBytes n := by
  have hidx : t.i = s.i := h .i hi
  have hload : ∀ a, t.load a = s.load a := h .mem hmem
  simp only [State.spriteBytes, State.loadBytes, State.dataAddr, hidx, hload]

/-! ### The draw as an instruction -/

/-- A draw whose rows are all in memory, or that has none. -/
theorem exec_drw_of_inBounds {s : State} {n : Nibble} (x y : Reg) (h : n.toNat = 0 ∨ s.dataAddr + n.toNat - 1 ≤ 4095) :
    exec (.drw x y n) s =
      .next ((s.setFb (s.drawSprite x y n).fb).setReg Reg.vf (flagByte (s.drawSprite x y n).hit)).advance :=
  if_pos (h.imp_right (inBounds_eq_true _).mpr)

theorem exec_drw_of_outOfBounds {s : State} {n : Nibble} (x y : Reg) (hn : 0 < n.toNat) (h : 4095 < s.dataAddr + n.toNat - 1) :
    exec (.drw x y n) s = .next (s.raise .outOfBoundsAccess (some (encode (.drw x y n)))) :=
  if_neg (by rw [inBounds_eq_true]; omega)

/-- Settles O33: a row out of memory is found before anything is drawn; else the updates are the display drawn, the collision in VF
and the advance. -/
theorem drawInvertsCoveredPixels : Obligations.DrawInvertsCoveredPixels := by
  intro x y n s
  refine ⟨fun ⟨hn, hout⟩ => ?_, fun h => ⟨_, exec_drw_of_inBounds x y h, s.drawSprite_pixel x y n, ?_, ?_, fun r hr => ?_, rfl, ?_⟩⟩
  · rw [exec_drw_of_outOfBounds x y hn hout]
    exact s.raise_takesFault _ _
  · exact State.setReg_flagIsBit _ _
  · rw [State.advance_reg, State.setReg_reg, if_pos rfl, flagByte_eq_one, State.drawSprite_hit]
  · rw [State.advance_reg, State.setReg_reg, if_neg hr, State.setFb_reg]
  · exact ((s.setFb_frame _).append (State.setReg_frame _ _ _)).advance.mono (by decide)

/-! ### The draw made twice -/

/-- Settles O34: I, memory and configuration are as before the first draw, so the second covers the same pixels; inverting a pixel
twice restores it, and a covered pixel that the second draw finds set is one that the first turned on. -/
theorem drawTwiceRestoresTheDisplay : Obligations.DrawTwiceRestoresTheDisplay := by
  intro x y n s h
  obtain ⟨t, hexec, hpixel, -, -, hregs, -, hframe⟩ := (drawInvertsCoveredPixels x y n s).2 h
  have hi : t.i = s.i := hframe .i (by decide)
  have h' : n.toNat = 0 ∨ t.dataAddr + n.toNat - 1 ≤ 4095 := by rwa [State.dataAddr, hi]
  obtain ⟨u, hexec', hpixel', -, hflag, -⟩ := (drawInvertsCoveredPixels x y n t).2 h'
  refine ⟨t, u, hexec, hexec', hregs, fun hx hy => ?_⟩
  have hsprite := hframe.spriteBytes_eq (by decide) (by decide) n
  simp only [hframe.cfg_eq (by decide), hx, hy, hsprite] at hpixel' hflag
  refine ⟨fun px py => ?_, hflag.trans (exists₂_congr fun px py => ?_)⟩
  · rw [Bool.eq_iff_iff, hpixel', hpixel]
    tauto
  · rw [← Bool.not_eq_true, hpixel]
    tauto

end Sys2Proof.Machine

/-! ## Keypad and timers (45_keypad_timers.md: O35, O36, O38, O39)

The key skips are the skip of control flow on the key's level, the timer instructions one update and the advance each. A key wait is
left by no CPU step, tick or key level; that no list of them leaves it goes by one induction over the operations performed, stated for
any property of states. -/

namespace Sys2Proof

/-- The format XNN with NN a sub-opcode, which is among the row's fixed bits. -/
theorem encodes_of_formatXnn_zero {i : Instr} {x : Reg} (h : i.fieldBits = formatXnn x 0) :
    Encodes i (i.row.pattern.toNat + 256 * x.val) := encodes_of_formatXnn h

end Sys2Proof

namespace Sys2Proof.Machine

/-! ### The key skips -/

/-- The low nibble of VX selects the key tested (45_keypad_timers.md R170; the spec's decision D6). -/
theorem State.keyOperand_eq_isPressed {s : State} {x : Reg} {k : KeyCode} (h : k.val = (s.reg x).toNat % 16) :
    s.keyOperand x = s.isPressed k := by
  rw [State.keyOperand, Fin.ext ((lowNibble_val (s.reg x)).trans h.symm)]

/-- Settles O35: the condition of each skip is the level of the key selected, or that level negated. -/
theorem keySkipsTestTheLevel : Obligations.KeySkipsTestTheLevel := by
  intro x k s hk
  have hlevel := State.keyOperand_eq_isPressed hk
  exact ⟨s.skipIf_setsPc (by rw [hlevel]), s.skipIf_setsPc (by rw [hlevel, Bool.not_eq_true'])⟩

/-! ### The timer instructions -/

/-- Settles O39: the word is the pattern and X, and the instruction is one update with the advance. -/
theorem timersAreReadAndSet : Obligations.TimersAreReadAndSet := fun x =>
  ⟨encodes_of_formatXnn_zero rfl, encodes_of_formatXnn_zero rfl, encodes_of_formatXnn_zero rfl, fun s =>
    ⟨s.setReg_writesReg x s.dt rfl,
      ⟨_, rfl, rfl, rfl, (s.setDt_frame (s.reg x)).advance.mono (by decide)⟩,
      ⟨_, rfl, rfl, rfl, (s.setSt_frame (s.reg x)).advance.mono (by decide)⟩⟩⟩

/-! ### The key wait -/

/-- Settles O36: the only update is RUN's. -/
theorem keyWaitSuspends : Obligations.KeyWaitSuspends := fun x s =>
  ⟨s.setRun (.awaitKey x), rfl, rfl, rfl, s.setRun_frame (.awaitKey x)⟩

/-- What each of the operations keeps, the list of them keeps. -/
theorem performAll_keeps {P : State → Prop} {ops : List Operation}
    (hkeep : ∀ op ∈ ops, ∀ s, P s → ∃ t, perform op s = .next t ∧ P t) {s : State} (hs : P s) :
    ∃ t, performAll ops s = some t ∧ P t := by
  induction ops generalizing s with
  | nil => exact ⟨s, performAll_nil s, hs⟩
  | cons op ops ih =>
    rw [List.forall_mem_cons] at hkeep
    obtain ⟨hhead, htail⟩ := hkeep
    obtain ⟨t, hperform, ht⟩ := hhead s hs
    rw [performAll_cons_next hperform]
    exact ih htail ht

/-- A CPU step does nothing in AwaitKey, and neither a tick nor a key level looks at RUN (45_keypad_timers.md R172; the spec's decision
D21). -/
theorem perform_keeps_awaitKey {op : Operation} (hop : op = .step ∨ op = .tick ∨ ∃ code pressed, op = .setKey code pressed)
    {x : Reg} {s : State} (hrun : s.run = .awaitKey x) :
    ∃ t, perform op s = .next t ∧ t.run = .awaitKey x ∧ Frame [.dt, .st, .key] s t := by
  obtain rfl | rfl | ⟨code, pressed, rfl⟩ := hop
  · exact ⟨s, cpuStep_of_not_ready (by simp [hrun]), hrun, Frame.refl _ s⟩
  · exact ⟨s.tick, rfl, hrun, s.tick_frame.mono (by decide)⟩
  · exact ⟨s.setKey code pressed, rfl, hrun, (s.setKey_frame code pressed).mono (by decide)⟩

/-- Settles O38: each operation keeps the wait and, with the frame since the first state, the frame. -/
theorem waitOutlastsStepsTicksAndLevels : Obligations.WaitOutlastsStepsTicksAndLevels := by
  intro ops x s hrun hops
  refine performAll_keeps (fun op hmem t ⟨hwait, hframe⟩ => ?_) ⟨hrun, Frame.refl _ s⟩
  obtain ⟨u, hperform, hwait', hframe'⟩ := perform_keeps_awaitKey (hops op hmem) hwait
  exact ⟨u, hperform, hwait', hframe.trans hframe'⟩

end Sys2Proof.Machine

/-! ## Exceptions, events and outputs (60_exceptions.md: O10, O11, O37, O40 to O42, O46 to O48, O50)

One lemma says how an instruction comes out: it takes its own fault, or it completes with FAULT as it was. From it every step has a
next state, and the ways a CPU step can halt a Ready machine are three; which fault comes where, and what it records, is read off
those. What a list of operations does goes by what each of them does. -/

namespace Sys2Proof.Machine

/-! ### How an instruction comes out -/

/-- The instruction has a next state, which has the same FAULT and is Halted only if the machine was before. -/
def Completes (i : Instr) (s : State) : Prop :=
  ∃ t, exec i s = .next t ∧ t.fault = s.fault ∧ (t.run = .halted → s.run = .halted)

/-- The instruction takes the fault it has of its own, and records its word. -/
def TakesOwnFault (i : Instr) (s : State) : Prop :=
  ∃ c, i.ownFault = some c ∧ exec i s = .next (s.raise c (some (encode i)))

/-- An instruction that answers one state with RUN and FAULT as they were. -/
theorem Completes.of_kept {i : Instr} {s t : State} (h : exec i s = .next t) (hrun : t.run = s.run) (hfault : t.fault = s.fault) :
    Completes i s :=
  ⟨t, h, hfault, fun hhalt => hrun.symm.trans hhalt⟩

/-- The instructions that check before they write anything: one branch completes, the other takes the fault. -/
theorem completes_or_takesOwnFault_of_ite {i : Instr} {s t : State} {c : Fault} {P : Prop} [Decidable P]
    (h : exec i s = if P then .next t else .next (s.raise c (some (encode i)))) (hown : i.ownFault = some c)
    (hrun : t.run = s.run) (hfault : t.fault = s.fault) : Completes i s ∨ TakesOwnFault i s := by
  by_cases hP : P
  · exact .inl (.of_kept (h.trans (if_pos hP)) hrun hfault)
  · exact .inr ⟨c, hown, h.trans (if_neg hP)⟩

/-- Every instruction completes or takes its own fault (R191): RET and CALL by the cases of the stack, the four that access memory by
their check, `FX0A` by beginning its wait; each other instruction answers one state made by updates that keep RUN and FAULT. -/
theorem exec_completes_or_takesOwnFault (i : Instr) (s : State) : Completes i s ∨ TakesOwnFault i s := by
  cases i with
  | ret =>
    obtain ⟨-, hpop⟩ | ⟨a, u, -, hpop, -, -, -, hframe⟩ := s.pop_cases
    · exact .inr ⟨_, rfl, by rw [exec_ret, execRet, hpop]⟩
    · refine .inl (.of_kept (t := u.setPc a) ?_ (hframe .run (by decide)) (hframe .fault (by decide)))
      rw [exec_ret, execRet, hpop]
  | call nnn =>
    obtain ⟨-, hpush⟩ | ⟨u, -, hpush, -, -, hframe⟩ := s.push_cases (s.pc + 2)
    · exact .inr ⟨_, rfl, by rw [exec_call, execCall, hpush]⟩
    · refine .inl (.of_kept (t := u.setPc (addrOperand nnn)) ?_ (hframe .run (by decide)) (hframe .fault (by decide)))
      rw [exec_call, execCall, hpush]
  | drw | ldB | stRegs | ldRegs => exact completes_or_takesOwnFault_of_ite rfl rfl rfl rfl
  | ldVxK x => exact .inl ⟨s.setRun (.awaitKey x), rfl, rfl, nofun⟩
  | addI x =>
    by_cases hquirk : s.cfg.fx1eSetsVf = true
    · exact .inl (.of_kept (exec_addI_of_fx1eSetsVf x hquirk) rfl rfl)
    · exact .inl (.of_kept (exec_addI_of_not_fx1eSetsVf x hquirk) rfl rfl)
  | _ => exact .inl (.of_kept rfl rfl rfl)

/-! ### Every step has a next state -/

theorem exec_has_next (i : Instr) (s : State) : ∃ t, exec i s = .next t := by
  obtain ⟨t, h, -⟩ | ⟨c, -, h⟩ := exec_completes_or_takesOwnFault i s
  · exact ⟨t, h⟩
  · exact ⟨_, h⟩

theorem cpuStep_has_next (s : State) : ∃ t, cpuStep s = .next t := by
  obtain ⟨-, h⟩ | ⟨-, -, h⟩ | ⟨w, i, -, -, -, h⟩ | ⟨w, e, -, -, -, h⟩ := cpuStep_cases s
  · exact ⟨_, h⟩
  · exact ⟨_, h⟩
  · exact h ▸ exec_has_next i s
  · exact ⟨_, h⟩

theorem perform_has_next (op : Operation) (s : State) : ∃ t, perform op s = .next t := by
  cases op with
  | step => exact cpuStep_has_next s
  | _ => exact ⟨_, rfl⟩

/-- Settles O11: the step is the CPU's step or a scheduled operation, and each has a next state. -/
theorem everyStepHasANextState : Obligations.EveryStepHasANextState := by
  intro s
  obtain ⟨-, h⟩ | ⟨op, rest, -, h⟩ := step_cases s <;> rw [h]
  · exact cpuStep_has_next s
  · exact perform_has_next op _

/-- No instruction adds to or takes from the operations scheduled (log 6). -/
theorem schedule_not_mem_mayChange (i : Instr) (cfg : Config) : .schedule ∉ i.mayChange cfg := by
  cases i with
  | addI | stRegs | ldRegs => simp only [Instr.mayChange]; split <;> decide
  | _ => simp [Instr.mayChange]

theorem perform_keeps_schedule {op : Operation} {s t : State} (h : perform op s = .next t) : t.schedule = s.schedule := by
  by_contra hne
  obtain hop | ⟨w, i, -, -, -, -, hi⟩ := mem_mayChange_of_perform (p := .schedule) h hne
  · cases op <;> simp [Operation.mayChange] at hop
  · exact schedule_not_mem_mayChange i s.cfg hi

/-- Settles O10: the operation is taken off the schedule, and performing it leaves the rest. -/
theorem scheduleIsPerformedInOrder : Obligations.ScheduleIsPerformedInOrder := by
  intro s op rest hsched
  have hstep := step_of_schedule_cons hsched
  obtain ⟨t, ht⟩ := perform_has_next op (s.setSchedule rest)
  exact ⟨hstep, t, hstep.trans ht, perform_keeps_schedule ht⟩

/-! ### Where a fault comes from -/

/-- The three ways a CPU step halts a Ready machine: no word to fetch, a word that decodes to nothing, or the own fault of the
instruction fetched; each leaves the state with that fault raised, and the word fetched in the record. -/
theorem cpuStep_halts_cases {s t : State} (hrun : s.run = .ready) (h : cpuStep s = .next t) (hhalt : t.run = .halted) :
    (s.fetchWord = none ∧ t = s.raise .outOfBoundsAccess none) ∨
    (∃ w e, s.fetchWord = some w ∧ decodeWord w = .error e ∧ t = s.raise .unknownOpcode (some w)) ∨
    (∃ w i c, s.fetchWord = some w ∧ decodeWord w = .ok i ∧ i.ownFault = some c ∧ t = s.raise c (some w)) := by
  have hnot : s.run ≠ .halted := by simp [hrun]
  obtain ⟨hidle, hs⟩ | ⟨-, hfetch, hs⟩ | ⟨w, i, -, hfetch, hdecode, hs⟩ | ⟨w, e, -, hfetch, hdecode, hs⟩ := cpuStep_cases s <;>
    rw [hs] at h
  · exact absurd hrun hidle
  · cases h
    exact .inl ⟨hfetch, rfl⟩
  · obtain ⟨u, hu, -, hkeeps⟩ | ⟨c, hown, hu⟩ := exec_completes_or_takesOwnFault i s <;> rw [hu] at h <;> cases h
    · exact absurd (hkeeps hhalt) hnot
    · exact .inr (.inr ⟨w, i, c, hfetch, hdecode, hown, by rw [decodeWord_eq_ok_iff.mp hdecode]⟩)
  · cases h
    obtain ⟨-, hu⟩ | ⟨-, hu⟩ := s.unknownWord_cases w <;> rw [hu] at hhalt ⊢
    · exact .inr (.inl ⟨w, e, hfetch, hdecode, rfl⟩)
    · exact absurd hhalt hnot

/-- The events leave FAULT alone and never enter Halted (R194). -/
theorem perform_event_keeps_fault {op : Operation} {s t : State} (hstep : op ≠ .step) (hreset : op ≠ .reset)
    (h : perform op s = .next t) : t.fault = s.fault ∧ (t.run = .halted → s.run = .halted) := by
  obtain ⟨hrun, hfault⟩ | ⟨hop, -⟩ | ⟨_, _, -, -, hrun, hfault⟩ | ⟨hop, -⟩ | ⟨_, _, hop, -⟩ := perform_run_cases h
  · exact ⟨hfault, fun hhalt => hrun.symm.trans hhalt⟩
  · exact absurd hop hreset
  · exact ⟨hfault, fun hhalt => by simp [hrun] at hhalt⟩
  · exact absurd hop hstep
  · exact absurd hop hstep

/-- Settles O47: a step that halts did so in one of three ways, an instruction without a fault of its own completes, and the events keep
FAULT. -/
theorem faultsComeOnlyWhereListed : Obligations.FaultsComeOnlyWhereListed := by
  refine ⟨fun s t hrun h hhalt => ?_, fun i s hown hnot => ?_, fun op s t hstep h => ⟨?_, fun hreset => ?_⟩, fun bytes s hlong => ?_⟩
  · obtain ⟨hfetch, rfl⟩ | ⟨w, e, hfetch, hdecode, rfl⟩ | ⟨w, i, c, hfetch, hdecode, hown, rfl⟩ := cpuStep_halts_cases hrun h hhalt
    · exact ⟨_, rfl, .inl ⟨hfetch, rfl⟩⟩
    · exact ⟨_, rfl, .inr (.inl ⟨w, e, hfetch, hdecode, rfl⟩)⟩
    · exact ⟨_, rfl, .inr (.inr ⟨w, i, hfetch, hdecode, hown⟩)⟩
  · obtain ⟨t, ht, hfault, hkeeps⟩ | ⟨c, hsome, -⟩ := exec_completes_or_takesOwnFault i s
    · exact ⟨t, ht, hfault, mt hkeeps hnot⟩
    · simp [hown] at hsome
  · rintro rfl
    cases h
    exact ⟨rfl, rfl⟩
  · exact perform_event_keeps_fault hstep hreset h
  · obtain ⟨-, hload⟩ | ⟨hshort, -⟩ := s.loadProgram_cases bytes
    · rw [hload]
    · exact absurd hlong (Nat.not_lt.mpr hshort)

/-- Settles O48: a fault is raised on the state at the beginning of the step, with the word fetched. -/
theorem faultsArePrecise : Obligations.FaultsArePrecise := by
  intro s t hrun h hhalt
  obtain ⟨hfetch, rfl⟩ | ⟨w, -, hfetch, -, rfl⟩ | ⟨w, -, c, hfetch, -, -, rfl⟩ := cpuStep_halts_cases hrun h hhalt <;>
    exact ⟨s.raise_frame _ _, _, rfl, rfl, by simp [hfetch], by simp [hfetch]⟩

/-! ### The key press -/

/-- Settles O37: in AwaitKey the register, PC and RUN are written; in the other run states there is no wait to complete. -/
theorem keyPressResumesTheWait : Obligations.KeyPressResumesTheWait := by
  intro code s
  obtain ⟨x, hwait, hpress⟩ | ⟨hno, hpress⟩ := s.notifyKeyPress_cases code
  · refine ⟨fun y hy => ⟨_, rfl, ?_⟩, fun hidle => by simp [hwait] at hidle⟩
    obtain rfl : x = y := RunState.awaitKey.inj (hwait.symm.trans hy)
    have hframe := (s.notifyKeyPress_frame code).mono (qs := [.run, .v, .pc]) (by decide)
    rw [hpress] at hframe ⊢
    refine ⟨rfl, ?_, fun r hr => ?_, rfl, hframe⟩
    · rw [State.setRun_reg, State.setPc_reg, State.setReg_reg, if_pos rfl, BitVec.toNat_ofNat]; omega
    · rw [State.setRun_reg, State.setPc_reg, State.setReg_reg, if_neg hr]
  · exact ⟨fun y hy => absurd hy (hno y), fun _ => congrArg _ hpress⟩

/-! ### The timers and the keys -/

theorem countDown_toNat (b : Byte) : (countDown b).toNat = b.toNat - 1 := by
  unfold countDown
  split <;> bv_omega

/-- Settles O40: a timer at 0 stays there, as the truncated difference does. -/
theorem tickCountsTimersDown : Obligations.TickCountsTimersDown := by
  refine fun s => ⟨s.tick, rfl, ?_, ?_, s.tick_frame⟩
  · rw [State.tick_dt, countDown_toNat]; split <;> omega
  · rw [State.tick_st, countDown_toNat]; split <;> omega

/-- Settles O41, by induction on the number of ticks: the first takes one off each timer, the others the rest. -/
theorem ticksNeverTakeATimerBelowZero : Obligations.TicksNeverTakeATimerBelowZero := by
  intro k
  induction k with
  | zero => exact fun s => ⟨s, rfl, rfl, rfl, Frame.refl _ s⟩
  | succ k ih =>
    intro s
    obtain ⟨t, hperform, hdt, hst, hframe⟩ := ih s.tick
    refine ⟨t, hperform, ?_, ?_, s.tick_frame.trans hframe⟩
    · rw [hdt, State.tick_dt, countDown_toNat]; omega
    · rw [hst, State.tick_st, countDown_toNat]; omega

/-- Settles O42: the update is one key's. -/
theorem setKeyWritesOneLevel : Obligations.SetKeyWritesOneLevel := fun code pressed s =>
  ⟨s.setKey code pressed, rfl, fun k => s.setKey_isPressed code k pressed, s.setKey_frame code pressed⟩

/-! ### Halted -/

/-- In Halted a CPU step and a key press do nothing, and the other operations but reset write their own part alone (R194, R206; the
spec's decisions D11 and D28). -/
theorem perform_keeps_halted {op : Operation} (hop : op ≠ .reset) {s : State} (hrun : s.run = .halted) :
    ∃ t, perform op s = .next t ∧ Frame [.dt, .st, .key, .mem] s t := by
  cases op with
  | step => exact ⟨s, cpuStep_of_not_ready (by simp [hrun]), Frame.refl _ s⟩
  | tick => exact ⟨_, rfl, s.tick_frame.mono (by decide)⟩
  | setKey code pressed => exact ⟨_, rfl, (s.setKey_frame code pressed).mono (by decide)⟩
  | notifyKeyPress code => exact ⟨s, (keyPressResumesTheWait code s).2 (.inr hrun), Frame.refl _ s⟩
  | loadProgram bytes => exact ⟨_, rfl, (s.loadProgram_frame bytes).mono (by decide)⟩
  | reset => exact absurd rfl hop

/-- Settles O50: each operation keeps the frame since the first state, and with it Halted. -/
theorem haltedIsAbsorbing : Obligations.HaltedIsAbsorbing := by
  intro ops s hrun hreset
  refine performAll_keeps (fun op hmem t hframe => ?_) (Frame.refl _ s)
  have hhalted : t.run = .halted := (hframe .run (by decide)).trans hrun
  obtain ⟨u, hperform, hframe'⟩ := perform_keeps_halted (fun hop => hreset (hop ▸ hmem)) hhalted
  exact ⟨u, hperform, hframe.trans hframe'⟩

/-! ### The outputs -/

theorem State.tone_eq_true (s : State) : s.tone = true ↔ s.st.toNat > 0 := decide_eq_true_iff

/-- Settles O46: each output is a function of the parts named. -/
theorem outputsShowTimerDisplayAndRun : Obligations.OutputsShowTimerDisplayAndRun := by
  refine fun s t => ⟨s.tone_eq_true, rfl, fun hst hfb hrun hfault => ⟨?_, fun x y => ?_, ?_⟩⟩
  · rw [State.tone, State.tone, hst]
  · rw [State.pixelAt, State.pixelAt, hfb]
  · rw [State.status, State.status, hrun, hfault]

end Sys2Proof.Machine

/-! ## Loading a program and reset (70_reset_and_hazards.md: O43, O44) -/

namespace Sys2Proof.Machine

/-! ### Loading a program -/

/-- After the load, the program's byte `k` stands at 0x200 + `k` (70_reset_and_hazards.md R236). -/
theorem State.afterLoaded_of_lt (s : State) {bytes : List Byte} {k : Nat} (hk : k < bytes.length) :
    s.afterLoaded bytes (0x200 + k) = bytes.getD k 0 := by
  rw [State.afterLoaded, if_pos (by omega), Nat.add_sub_cancel_left]

/-- Settles O43: a program is refused, or its bytes are stored from 0x200 upwards, where the largest one ends with memory. -/
theorem loadProgramCopiesOrRefuses : Obligations.LoadProgramCopiesOrRefuses := by
  intro bytes s
  obtain ⟨hlong, hload⟩ | ⟨hfits, hload⟩ := s.loadProgram_cases bytes
  · exact ⟨fun _ => ⟨hload, by rw [perform, hload]⟩, fun hfits => absurd hlong (Nat.not_lt.mpr hfits)⟩
  · refine ⟨fun hlong => absurd hlong (Nat.not_lt.mpr hfits), fun _ =>
      ⟨_, hload, perform_loadProgram_of_fits hfits s, fun k hk => ?_, fun a ha => ?_, s.storeBytes_frame _ _⟩⟩
    · rw [s.storeBytes_program_load hfits, s.afterLoaded_of_lt hk]
    · exact s.storeBytes_load_other _ a bytes ha

/-! ### Reset -/

/-- A reset differs from the construction of a new machine in the draws made and the operations scheduled alone
(70_reset_and_hazards.md R230). -/
theorem State.constructed_frame_hostReset (s : State) : Frame [.draws, .schedule] (State.constructed s.cfg) s.hostReset := by
  intro p hp
  cases p with
  | draws | schedule => simp at hp
  | v | key | mem => exact fun _ => rfl
  | fb => exact fun _ _ => rfl
  | stack => exact ⟨rfl, rfl⟩
  | _ => rfl

/-- Settles O44: whatever the state, a reset takes from it only the configuration, the draws and the schedule. -/
theorem resetConstructsTheMachineAnew : Obligations.ResetConstructsTheMachineAnew := fun s =>
  ⟨s.hostReset, rfl, s.constructed_frame_hostReset, rfl, rfl⟩

end Sys2Proof.Machine
